-- ==== Sys2Proof/Word.lean ====
section
/-! DEFINITION. The plain values of the LC-416: bytes, ports, record indices, tags, addresses and lease-clock
values. Nothing here computes more than a width. -/

namespace Sys2Proof

/-- One byte of a packet, of a service frame or of the pool. -/
abbrev Byte := BitVec 8

/-- A host port, H0 to H3 (00_scope 4.3). -/
abbrev Port := Fin 4

/-- A lease record index, L0 to L255 (R1). -/
abbrev RecordIndex := Fin 256

/-- A host slot of the pool slot table, 0 to 62 (R114); slot 63 is the scrub slot. -/
abbrev HostSlotNumber := Fin 63

/-- A command tag, 0 to 7 (R43). -/
abbrev CommandTag := Fin 8

/-- A read tag, 0 to 31 (R112). -/
abbrev ReadTag := Fin 32

/-- A standing entry number, 0 to 15 (R8). -/
abbrev EntryNumber := Fin 16

/-- A lease-clock value or a deadline, 32 bits (R21). -/
abbrev ClockValue := BitVec 32

/-- A pool address, 36 bits (00_scope 4.1). -/
abbrev PoolAddress := BitVec 36

/-- A host identifier, 32 bits, opaque to the part (R140). -/
abbrev HostId := BitVec 32

/-- The name of a lease: a record index and a generation (R4). -/
structure Handle where
  index : RecordIndex
  generation : BitVec 16
  deriving DecidableEq, Repr

end Sys2Proof
end

