-- ==== Sys2Proof/Config.lean ====
section
/-! DEFINITION. The free values of the model: constants without a body, one for each kind of outcome that the
manual leaves open although the machine goes on. Nothing in Lean can evaluate them, so a theorem holds whatever
they are. Each is applied to `State.choices`, the model's own counter of the open choices met so far. -/

namespace Sys2Proof.Config

/-- The n-th open choice among several possibilities. The model takes it modulo the number of possibilities.
It decides the order in which the memory controller carries out accesses that touch the same bytes (R118), what
becomes of the operations a device reset abandons (R102, R124), and the order of effects of one event to which
the manual gives no order (assumption log 4, 5 and 6). -/
opaque choice : Nat → Nat

/-- The byte a pool address holds while its contents are unknown (R101, R118). The first argument says which
unknown: the pool's contents after a power-on differ from those after an abandoned zero-fill (log 7). -/
opaque unknownByte : Nat → Nat → Byte

end Sys2Proof.Config
end

