-- ==== Sys2Proof/Syntax.lean ====
section
/-! DEFINITION. The steps of the LC-416 as syntax: `Instr` has one constructor for each row of
spec/opcode_table.json, in the table's order. A row that a packet or a frame brings about carries what the packet
or frame carries; a row that takes something out of the part's own queues carries nothing, since what it takes is
decided by the state (R41, R106). -/

namespace Sys2Proof

/-- A packet as the pool link delivers it, whole (R139): the kind byte of its header and its body. The header's
body length is the number of body bytes (section 12.2). -/
structure RawPacket where
  kind : Byte
  body : List Byte
  deriving DecidableEq, Repr

/-- A lease command as a COMMAND packet carries it (section 12.2.1), every operand at the width of its field.
`unknown` is a COMMAND whose code names none of the seven commands (R45). -/
inductive LeaseCommand where
  | acquire (kind : Byte) (base : BitVec 16) (count : BitVec 24) (term : BitVec 16) (maxWait : BitVec 16)
  | join (handle : Handle) (term : BitVec 16)
  | renew (handle : Handle) (term : BitVec 16)
  | release (handle : Handle)
  | convert (handle : Handle)
  | cancel (target : Byte)
  | lookup (granule : BitVec 16)
  | unknown (code : Byte) (operands : List Byte)
  deriving DecidableEq, Repr

/-- A COMMAND packet: its command tag and its command (R40). -/
structure CommandPacket where
  tag : CommandTag
  command : LeaseCommand
  deriving DecidableEq, Repr

/-- A READ or WRITE packet of an access queue (R104). -/
inductive Access where
  | read (tag : ReadTag) (address : PoolAddress) (length : BitVec 16)
  | write (address : PoolAddress) (length : BitVec 16) (data : List Byte)
  deriving DecidableEq, Repr

/-- A packet toward the part that is not malformed (section 12.2, R180). -/
inductive Packet where
  | access (a : Access)
  | command (c : CommandPacket)
  | noticeAck (sequence : BitVec 16)
  | hello (host : HostId)
  deriving DecidableEq, Repr

/-- The selector of a profile field: a field code, a port byte and an entry byte (R174, R182). -/
structure Selector where
  code : Byte
  port : Byte
  entry : Byte
  deriving DecidableEq, Repr

/-- The commands and events of the LC-416, one constructor per row of spec/opcode_table.json. -/
inductive Instr where
  /-- READ_ARRIVAL (R104): a packet arrives on the port's link as a READ. -/
  | readArrival (p : Port) (packet : RawPacket)
  /-- WRITE_ARRIVAL (R104). -/
  | writeArrival (p : Port) (packet : RawPacket)
  /-- COMMAND_ARRIVAL (R40). -/
  | commandArrival (p : Port) (packet : RawPacket)
  /-- NOTICE_ACK (R131). -/
  | noticeAck (p : Port) (packet : RawPacket)
  /-- HELLO (R144). -/
  | hello (p : Port) (packet : RawPacket)
  /-- LINK_UP (R142): the link layer of the port reports a link up. -/
  | linkUp (p : Port)
  /-- LINK_LOSS (R143). -/
  | linkLoss (p : Port)
  /-- PACKET_SENT (R141): the link accepts the head of the port's outbound list. -/
  | packetSent (p : Port)
  /-- ACQUIRE (R47): the command unit takes the next command, which is an ACQUIRE. -/
  | acquire
  /-- JOIN (R51). -/
  | join
  /-- RENEW (R53). -/
  | renew
  /-- RELEASE (R55). -/
  | release
  /-- CONVERT (R57). -/
  | convert
  /-- CANCEL (R58). -/
  | cancel
  /-- LOOKUP (R60). -/
  | lookup
  /-- MALFORMED_COMMAND (R45): the next command carries a code that names no command. -/
  | malformedCommand
  /-- WAIT_DEADLINE_EXPIRY (R69): the wait deadline of the port's entry with this tag is reached. -/
  | waitDeadlineExpiry (p : Port) (tag : CommandTag)
  /-- HOLDER_EXPIRY (R23): the deadline of the port's holder entry in the record is reached. -/
  | holderExpiry (i : RecordIndex) (p : Port)
  /-- NOTICE_DEADLINE (R82): the notice deadline of the record is reached. -/
  | noticeDeadline (i : RecordIndex)
  /-- READ_TAKING (R108): the slot arbiter takes the next access, which is a READ. -/
  | readTaking
  /-- WRITE_TAKING (R108). -/
  | writeTaking
  /-- READ_COMPLETION (R117): the memory controller completes the READ in the slot, with a pool error or with
  its data. -/
  | readCompletion (slot : HostSlotNumber) (poolError : Bool)
  /-- WRITE_COMPLETION (R117). -/
  | writeCompletion (slot : HostSlotNumber)
  /-- ZERO_FILL_COMPLETION (R96). -/
  | zeroFillCompletion
  /-- ACK_TIMER_EXPIRY (R132): the expiry of the port's ack timer is reached. -/
  | ackTimerExpiry (p : Port)
  /-- BAD_FRAME (R166): a service transfer whose size, CRC or operand length is wrong. -/
  | badFrame (transfer : List Byte)
  /-- BAD_COMMAND (R166): a service frame whose request code names no request. -/
  | badCommand (transfer : List Byte)
  /-- IDENTIFY (R169). -/
  | identify
  /-- STATUS (R169). -/
  | status
  /-- ALERT_READ (R177). -/
  | alertRead
  /-- ALERT_CLEAR (R177): the causes named, one bit each (R182). -/
  | alertClear (causes : BitVec 16)
  /-- ALERT_MASK (R177). -/
  | alertMask (mask : BitVec 16)
  /-- PORT_STATUS (R170). -/
  | portStatus (port : Byte)
  /-- REFUSAL_CLEAR (R170). -/
  | refusalClear (port : Byte)
  /-- PORT_RESET (R149). -/
  | portReset (port : Byte)
  /-- LEASE_READ (R171). -/
  | leaseRead (index : BitVec 16)
  /-- LEASE_NEXT (R171). -/
  | leaseNext (granule : BitVec 24)
  /-- FORCE_REVOKE (R77). -/
  | forceRevoke (handle : Handle) (grace : BitVec 16)
  /-- WAIT_READ (R74). -/
  | waitRead
  /-- SCRUB_READ (R103). -/
  | scrubRead
  /-- DEVICE_RESET (R173). -/
  | deviceReset
  /-- FIELD_READ (R174). -/
  | fieldRead (selector : Selector)
  /-- FIELD_WRITE (R174). -/
  | fieldWrite (selector : Selector) (value : BitVec 24)
  /-- PROFILE_SAVE (R162). -/
  | profileSave (slot : Byte)
  /-- PROFILE_LOAD (R165). -/
  | profileLoad (slot : Byte)
  /-- BOOT_SELECT (R162). -/
  | bootSelect (slot : Byte)
  /-- NV_OPERATION_COMPLETE (R163): the read-back agrees with what was written, or it does not. -/
  | nvOperationComplete (agrees : Bool)
  /-- POWER_ON_RESET (R158). -/
  | powerOnReset
  /-- RESET_ASSERT (R173). -/
  | resetAssert
  /-- RESET_RELEASE (R161). -/
  | resetRelease
  /-- BECOME_READY (R160): the memory controller has settled. -/
  | becomeReady
  /-- LEASE_CLOCK_TICK (R21): one millisecond passes. -/
  | leaseClockTick
  deriving DecidableEq, Repr

end Sys2Proof
end

