-- ==== Sys2Proof/WellFormed.lean ====
section
/-! DEFINITION. What every step that can reach the part satisfies as syntax. Two kinds of operand can be written
down and yet never occur: a packet whose body is longer than its header's two length bytes can say, and a service
transfer that begins with 00h, which is a read transfer and no request (R167). -/

namespace Sys2Proof

/-- The body length of the packet fits the two length bytes of its header (section 12.2). -/
def RawPacket.fitsHeader (k : RawPacket) : Bool := decide (k.body.length < 65536)

/-- The transfer is a request transfer: its first byte is not 00h (R167). A transfer of no byte has no first byte
and is taken as a request transfer too short to hold a length field (R166). -/
def isRequestTransfer (t : List Byte) : Bool := decide (t.head? ≠ some 0)

/-- The syntactic check of a step. -/
def Instr.wellFormed : Instr → Bool
  | .readArrival _ k | .writeArrival _ k | .commandArrival _ k | .noticeAck _ k | .hello _ k => k.fitsHeader
  | .badFrame t | .badCommand t => isRequestTransfer t
  | .linkUp _ | .linkLoss _ | .packetSent _ => true
  | .acquire | .join | .renew | .release | .convert | .cancel | .lookup | .malformedCommand => true
  | .waitDeadlineExpiry _ _ | .holderExpiry _ _ | .noticeDeadline _ => true
  | .readTaking | .writeTaking | .readCompletion _ _ | .writeCompletion _ | .zeroFillCompletion => true
  | .ackTimerExpiry _ => true
  | .identify | .status | .alertRead | .alertClear _ | .alertMask _ | .portStatus _ | .refusalClear _ => true
  | .portReset _ | .leaseRead _ | .leaseNext _ | .forceRevoke _ _ | .waitRead | .scrubRead | .deviceReset => true
  | .fieldRead _ | .fieldWrite _ _ | .profileSave _ | .profileLoad _ | .bootSelect _ => true
  | .nvOperationComplete _ | .powerOnReset | .resetAssert | .resetRelease | .becomeReady | .leaseClockTick => true

end Sys2Proof
end

