-- ==== Sys2Proof/Decode.lean ====
section
/-! DEFINITION. The encodings of Chapter 12 toward the part: pool-link packets (R179, R180) and service request
frames (R166, R182), each read by a total decoder and written by an encoder. The opcode table gives its rows no
bits, so `decodeTableWord` reads none of them. -/

namespace Sys2Proof

/-! ## Little-endian fields (R179) -/

/-- The n low bytes of a value, the least significant first. -/
def leBytes : Nat → Nat → List Byte
  | 0, _ => []
  | n + 1, v => BitVec.ofNat 8 v :: leBytes n (v / 256)

/-- The value of little-endian bytes. -/
def leValue : List Byte → Nat
  | [] => 0
  | b :: bs => b.toNat + 256 * leValue bs

/-- A handle from its three bytes: the record index, then the generation (section 12.1). -/
def handleOfBytes (i g0 g1 : Byte) : Handle := ⟨⟨i.toNat, i.isLt⟩, BitVec.ofNat 16 (leValue [g0, g1])⟩

/-- The three bytes of a handle. -/
def Handle.bytes (h : Handle) : List Byte := BitVec.ofNat 8 h.index.val :: leBytes 2 h.generation.toNat

/-! ## Packets toward the part -/

/-- The command of a COMMAND body after its tag and code (section 12.2.1). A code outside 1 to 7 has no fixed
size (R180). -/
def decodeCommand (code : Byte) (operands : List Byte) : Option LeaseCommand :=
  match code.toNat with
  | 1 =>
    match operands with
    | [k, b0, b1, c0, c1, c2, t0, t1, w0, w1] =>
      some (.acquire k (BitVec.ofNat 16 (leValue [b0, b1])) (BitVec.ofNat 24 (leValue [c0, c1, c2]))
        (BitVec.ofNat 16 (leValue [t0, t1])) (BitVec.ofNat 16 (leValue [w0, w1])))
    | _ => none
  | 2 =>
    match operands with
    | [i, g0, g1, t0, t1] => some (.join (handleOfBytes i g0 g1) (BitVec.ofNat 16 (leValue [t0, t1])))
    | _ => none
  | 3 =>
    match operands with
    | [i, g0, g1, t0, t1] => some (.renew (handleOfBytes i g0 g1) (BitVec.ofNat 16 (leValue [t0, t1])))
    | _ => none
  | 4 =>
    match operands with
    | [i, g0, g1] => some (.release (handleOfBytes i g0 g1))
    | _ => none
  | 5 =>
    match operands with
    | [i, g0, g1] => some (.convert (handleOfBytes i g0 g1))
    | _ => none
  | 6 =>
    match operands with
    | [t] => some (.cancel t)
    | _ => none
  | 7 =>
    match operands with
    | [g0, g1] => some (.lookup (BitVec.ofNat 16 (leValue [g0, g1])))
    | _ => none
  | _ => some (.unknown code operands)

/-- The packet that arrived, or none when it is malformed (R180). -/
def decodePacket (k : RawPacket) : Option Packet :=
  match k.kind.toNat with
  | 1 =>
    match k.body with
    | [t, a0, a1, a2, a3, a4, l0, l1] =>
      if h : t.toNat < 32 then
        if leValue [a0, a1, a2, a3, a4] < 2 ^ 36 then
          some (.access (.read ⟨t.toNat, h⟩ (BitVec.ofNat 36 (leValue [a0, a1, a2, a3, a4]))
            (BitVec.ofNat 16 (leValue [l0, l1]))))
        else none
      else none
    | _ => none
  | 2 =>
    match k.body with
    | a0 :: a1 :: a2 :: a3 :: a4 :: l0 :: l1 :: data =>
      if leValue [a0, a1, a2, a3, a4] < 2 ^ 36 ∧ leValue [l0, l1] ≤ 256 ∧ data.length = leValue [l0, l1] then
        some (.access (.write (BitVec.ofNat 36 (leValue [a0, a1, a2, a3, a4]))
          (BitVec.ofNat 16 (leValue [l0, l1])) data))
      else none
    | _ => none
  | 3 =>
    match k.body with
    | t :: code :: operands =>
      if h : t.toNat < 8 then
        (decodeCommand code operands).map (fun c => .command ⟨⟨t.toNat, h⟩, c⟩)
      else none
    | _ => none
  | 4 =>
    match k.body with
    | [s0, s1] => some (.noticeAck (BitVec.ofNat 16 (leValue [s0, s1])))
    | _ => none
  | 5 =>
    match k.body with
    | [h0, h1, h2, h3] => some (.hello (BitVec.ofNat 32 (leValue [h0, h1, h2, h3])))
    | _ => none
  | _ => none

/-- The code and the operand bytes of a command. -/
def LeaseCommand.bytes : LeaseCommand → List Byte
  | .acquire k b c t w => 1 :: k :: (leBytes 2 b.toNat ++ leBytes 3 c.toNat ++ leBytes 2 t.toNat ++ leBytes 2 w.toNat)
  | .join h t => 2 :: (h.bytes ++ leBytes 2 t.toNat)
  | .renew h t => 3 :: (h.bytes ++ leBytes 2 t.toNat)
  | .release h => 4 :: h.bytes
  | .convert h => 5 :: h.bytes
  | .cancel t => [6, t]
  | .lookup g => 7 :: leBytes 2 g.toNat
  | .unknown code operands => code :: operands

/-- The packet as it travels: its kind and its body. -/
def Packet.encode : Packet → RawPacket
  | .access (.read t a l) => ⟨1, BitVec.ofNat 8 t.val :: (leBytes 5 a.toNat ++ leBytes 2 l.toNat)⟩
  | .access (.write a l d) => ⟨2, leBytes 5 a.toNat ++ leBytes 2 l.toNat ++ d⟩
  | .command c => ⟨3, BitVec.ofNat 8 c.tag.val :: c.command.bytes⟩
  | .noticeAck q => ⟨4, leBytes 2 q.toNat⟩
  | .hello h => ⟨5, leBytes 4 h.toNat⟩

/-- A packet that a host can form: a WRITE carries as many data bytes as its length field says, at most 256, and
an unknown command has none of the seven codes. -/
def Packet.wellFormed : Packet → Bool
  | .access (.read _ _ _) => true
  | .access (.write _ l d) => decide (l.toNat ≤ 256 ∧ d.length = l.toNat)
  | .command ⟨_, .unknown code _⟩ => decide (code.toNat = 0 ∨ 8 ≤ code.toNat)
  | .command _ => true
  | .noticeAck _ => true
  | .hello _ => true

/-! ## Service frames -/

/-- One bit of the CRC-8: polynomial x^8 + x^2 + x + 1 (R182). -/
def crc8Bit (c : Byte) : Byte := if c.msb then (c <<< 1) ^^^ 0x07 else c <<< 1

/-- One byte of the CRC-8. -/
def crc8Byte (c b : Byte) : Byte :=
  crc8Bit (crc8Bit (crc8Bit (crc8Bit (crc8Bit (crc8Bit (crc8Bit (crc8Bit (c ^^^ b))))))))

/-- The CRC-8 of a list of bytes: initial value 00h, no reflection, no final inversion (R182). -/
def crc8 (bs : List Byte) : Byte := bs.foldl crc8Byte 0

/-- What a request code and its operands name: no request, a request with operands of a wrong length, or a
request (R166, checks 3 and 4). -/
inductive RequestReading where
  | noRequest
  | wrongLength
  | request (i : Instr)
  deriving DecidableEq, Repr

/-- The request of a code and operands (R182). -/
def readRequest (code : Byte) (operands : List Byte) : RequestReading :=
  match code.toNat with
  | 0x01 => match operands with | [] => .request .identify | _ => .wrongLength
  | 0x02 => match operands with | [] => .request .status | _ => .wrongLength
  | 0x03 => match operands with | [] => .request .alertRead | _ => .wrongLength
  | 0x04 => match operands with | [c0, c1] => .request (.alertClear (BitVec.ofNat 16 (leValue [c0, c1]))) | _ => .wrongLength
  | 0x05 => match operands with | [m0, m1] => .request (.alertMask (BitVec.ofNat 16 (leValue [m0, m1]))) | _ => .wrongLength
  | 0x06 => match operands with | [p] => .request (.portStatus p) | _ => .wrongLength
  | 0x07 => match operands with | [p] => .request (.refusalClear p) | _ => .wrongLength
  | 0x08 => match operands with | [p] => .request (.portReset p) | _ => .wrongLength
  | 0x09 => match operands with | [i0, i1] => .request (.leaseRead (BitVec.ofNat 16 (leValue [i0, i1]))) | _ => .wrongLength
  | 0x0A => match operands with | [g0, g1, g2] => .request (.leaseNext (BitVec.ofNat 24 (leValue [g0, g1, g2]))) | _ => .wrongLength
  | 0x0B =>
    match operands with
    | [i, g0, g1, c0, c1] => .request (.forceRevoke (handleOfBytes i g0 g1) (BitVec.ofNat 16 (leValue [c0, c1])))
    | _ => .wrongLength
  | 0x0C => match operands with | [] => .request .waitRead | _ => .wrongLength
  | 0x0D => match operands with | [] => .request .scrubRead | _ => .wrongLength
  | 0x0E => match operands with | [] => .request .deviceReset | _ => .wrongLength
  | 0x0F => match operands with | [f, p, e] => .request (.fieldRead ⟨f, p, e⟩) | _ => .wrongLength
  | 0x10 =>
    match operands with
    | [f, p, e, v0, v1, v2] => .request (.fieldWrite ⟨f, p, e⟩ (BitVec.ofNat 24 (leValue [v0, v1, v2])))
    | _ => .wrongLength
  | 0x11 => match operands with | [s] => .request (.profileSave s) | _ => .wrongLength
  | 0x12 => match operands with | [s] => .request (.profileLoad s) | _ => .wrongLength
  | 0x13 => match operands with | [s] => .request (.bootSelect s) | _ => .wrongLength
  | _ => .noRequest

/-- The number of bytes received equals the size that the operand length field gives (R166, check 1). -/
def transferSizeAgrees : List Byte → Bool
  | t@(_ :: n :: _) => decide (t.length = n.toNat + 3)
  | _ => false

/-- The step that a service transfer brings about, with the checks of R166 in their order; none for a read
transfer, whose first byte is 00h (R167). -/
def decodeTransfer (t : List Byte) : Option Instr :=
  if isRequestTransfer t = false then none
  else if transferSizeAgrees t = false then some (.badFrame t)
  else if t.getLast? ≠ some (crc8 t.dropLast) then some (.badFrame t)
  else
    match readRequest (t.headD 0) (t.dropLast.drop 2) with
    | .noRequest => some (.badCommand t)
    | .wrongLength => some (.badFrame t)
    | .request i => some i

/-- A request frame: code, operand length, operands and CRC-8 (R182). -/
def requestFrame (code : Byte) (operands : List Byte) : List Byte :=
  let b := code :: BitVec.ofNat 8 operands.length :: operands
  b ++ [crc8 b]

/-- The transfer that carries a service step; none for a step that no service transfer brings about. -/
def encodeTransfer : Instr → Option (List Byte)
  | .badFrame t | .badCommand t => some t
  | .identify => some (requestFrame 0x01 [])
  | .status => some (requestFrame 0x02 [])
  | .alertRead => some (requestFrame 0x03 [])
  | .alertClear c => some (requestFrame 0x04 (leBytes 2 c.toNat))
  | .alertMask m => some (requestFrame 0x05 (leBytes 2 m.toNat))
  | .portStatus p => some (requestFrame 0x06 [p])
  | .refusalClear p => some (requestFrame 0x07 [p])
  | .portReset p => some (requestFrame 0x08 [p])
  | .leaseRead i => some (requestFrame 0x09 (leBytes 2 i.toNat))
  | .leaseNext g => some (requestFrame 0x0A (leBytes 3 g.toNat))
  | .forceRevoke h g => some (requestFrame 0x0B (h.bytes ++ leBytes 2 g.toNat))
  | .waitRead => some (requestFrame 0x0C [])
  | .scrubRead => some (requestFrame 0x0D [])
  | .deviceReset => some (requestFrame 0x0E [])
  | .fieldRead s => some (requestFrame 0x0F [s.code, s.port, s.entry])
  | .fieldWrite s v => some (requestFrame 0x10 (s.code :: s.port :: s.entry :: leBytes 3 v.toNat))
  | .profileSave s => some (requestFrame 0x11 [s])
  | .profileLoad s => some (requestFrame 0x12 [s])
  | .bootSelect s => some (requestFrame 0x13 [s])
  | .readArrival _ _ | .writeArrival _ _ | .commandArrival _ _ | .noticeAck _ _ | .hello _ _ => none
  | .linkUp _ | .linkLoss _ | .packetSent _ => none
  | .acquire | .join | .renew | .release | .convert | .cancel | .lookup | .malformedCommand => none
  | .waitDeadlineExpiry _ _ | .holderExpiry _ _ | .noticeDeadline _ => none
  | .readTaking | .writeTaking | .readCompletion _ _ | .writeCompletion _ | .zeroFillCompletion => none
  | .ackTimerExpiry _ | .nvOperationComplete _ => none
  | .powerOnReset | .resetAssert | .resetRelease | .becomeReady | .leaseClockTick => none

/-! ## Table words -/

/-- The command that a word of the opcode table spells. The table gives none of its rows any bits, so no word
spells a command. -/
def decodeTableWord (_nbits _w : Nat) : Option Instr := none

end Sys2Proof
end

