-- ==== Sys2Proof/Machine/Pool.lean ====
section
/-! DEFINITION. The contents of the pool as R118 describes them, and the memory controller's carrying out of the
operations that the LC-416 sends to it (R95, R111). A byte that neither a WRITE nor a zero-fill has set since
power-on is unknown: it reads as a free value. -/

namespace Sys2Proof.Machine

/-- The granule of a pool address: the address divided by 2^20 (R24). -/
def granuleOf (a : Nat) : Nat := a / 2 ^ 20

/-- What the bytes of a granule hold where no WRITE has stored since. -/
inductive Background where
  /-- zero-filled (R96) -/
  | zeroed
  /-- unknown, by the stamp of the event that left it so (R102) -/
  | unknown (stamp : Nat)
  deriving DecidableEq, Repr

/-- The pool. `cells` lists the bytes stored by WRITEs, addresses rising; `backgrounds` lists the granules whose
background is not the unknown of the last power-on, indices rising; `powerOn` is the stamp of that unknown. -/
structure Pool where
  cells : List Host.Cell
  backgrounds : List (Nat × Background)
  powerOn : Nat
  deriving DecidableEq, Repr

/-- The value listed for a key. -/
def lookupKey {α : Type} (k : Nat) : List (Nat × α) → Option α
  | [] => none
  | (j, v) :: rest => if j = k then some v else lookupKey k rest

/-- A list with the value of one key put in its place by key. -/
def insertKey {α : Type} (k : Nat) (v : α) : List (Nat × α) → List (Nat × α)
  | [] => [(k, v)]
  | (j, w) :: rest => if k < j then (k, v) :: (j, w) :: rest else if j = k then (k, v) :: rest else (j, w) :: insertKey k v rest

/-- A list without one key. -/
def removeKey {α : Type} (k : Nat) (l : List (Nat × α)) : List (Nat × α) := l.filter (fun c => c.1 ≠ k)

/-- The background of a granule. -/
def Pool.background (m : Pool) (g : Nat) : Background := (lookupKey g m.backgrounds).getD (.unknown m.powerOn)

/-- What an unlisted address reads as: 0 in a zero-filled granule, else a free value (R118). -/
def Pool.unlisted (m : Pool) (a : Nat) : Byte :=
  match m.background (granuleOf a) with
  | .zeroed => 0
  | .unknown stamp => Config.unknownByte stamp a

/-- The byte the pool holds at an address (R118). -/
def Pool.readByte (m : Pool) (a : Nat) : Byte := (lookupKey a m.cells).getD (m.unlisted a)

/-- Consecutive bytes from an address. -/
def Pool.readBytes (m : Pool) (a : Nat) : Nat → List Byte
  | 0 => []
  | n + 1 => m.readByte a :: m.readBytes (a + 1) n

/-- A byte stored at an address. A zero in a zero-filled granule is what the address reads as unlisted, so it
takes its entry away. -/
def Pool.writeByte (m : Pool) (a : Nat) (b : Byte) : Pool :=
  if m.background (granuleOf a) = .zeroed ∧ b = 0 then { m with cells := removeKey a m.cells }
  else { m with cells := insertKey a b m.cells }

/-- Consecutive bytes stored from an address. -/
def Pool.writeBytes (m : Pool) (a : Nat) : List Byte → Pool
  | [] => m
  | b :: bs => (m.writeByte a b).writeBytes (a + 1) bs

/-- A granule given a background, with the bytes that WRITEs had stored in it gone. -/
def Pool.refill (m : Pool) (g : Nat) (b : Background) : Pool :=
  { m with
    cells := m.cells.filter (fun c => granuleOf c.1 ≠ g)
    backgrounds := if b = .unknown m.powerOn then removeKey g m.backgrounds else insertKey g b m.backgrounds }

/-- The keys of a list rise strictly. -/
def keysRise {α : Type} : List (Nat × α) → Bool
  | [] => true
  | [_] => true
  | (i, _) :: (j, w) :: rest => decide (i < j) && keysRise ((j, w) :: rest)

/-- The canonical form: addresses rise strictly, granules rise strictly, no listed background is the one of an
unlisted granule, and no listed byte equals what its address reads as unlisted in a zero-filled granule. -/
def Pool.wf (m : Pool) : Bool :=
  keysRise m.cells && keysRise m.backgrounds && m.backgrounds.all (fun c => decide (c.2 ≠ .unknown m.powerOn)) &&
    m.cells.all (fun c => !(decide (m.background (granuleOf c.1) = .zeroed) && decide (c.2 = 0)))

/-! ## Operations at the memory controller -/

/-- What the LC-416 asks of the memory controller for a host access (R111). -/
inductive PoolRequest where
  | read (address : PoolAddress) (length : Nat)
  | write (address : PoolAddress) (data : List Byte)
  deriving DecidableEq, Repr

/-- An operation issued and not yet completed. `carriedOut` is none until the memory controller has carried the
operation out; then it holds the bytes a READ found, and no bytes for a WRITE. -/
structure PoolOperation where
  slot : HostSlotNumber
  request : PoolRequest
  carriedOut : Option (List Byte)
  deriving DecidableEq, Repr

/-- The first address and the number of bytes of a request. -/
def PoolRequest.span : PoolRequest → Nat × Nat
  | .read a n => (a.toNat, n)
  | .write a d => (a.toNat, d.length)

/-- The request stores bytes. -/
def PoolRequest.stores : PoolRequest → Bool
  | .read _ _ => false
  | .write _ _ => true

/-- Two requests touch the same bytes and at least one of them stores. Only then does it matter which is carried
out first. -/
def PoolRequest.clashes (x y : PoolRequest) : Bool :=
  (x.stores || y.stores) &&
    decide (x.span.1 < y.span.1 + y.span.2 ∧ y.span.1 < x.span.1 + x.span.2)

/-- An operation carried out as a unit on the pool (R118): the pool after it and the bytes it found. -/
def PoolRequest.carryOut (x : PoolRequest) (m : Pool) : Pool × List Byte :=
  match x with
  | .read a n => (m, m.readBytes a.toNat n)
  | .write a d => (m.writeBytes a.toNat d, [])

/-- The element at an open choice; the head when the list has one element, so that no choice is met. -/
def choose {α : Type} (n : Nat) (x : α) (rest : List α) : α :=
  match rest with
  | [] => x
  | _ => (x :: rest).getD (Config.choice n % (rest.length + 1)) x

/-- A list in an open order. -/
def anyOrder {α : Type} [DecidableEq α] : Nat → Nat → List α → List α
  | 0, _, l => l
  | _, _, [] => []
  | fuel + 1, n, x :: rest =>
    let y := choose n x rest
    y :: anyOrder fuel (n + 1) ((x :: rest).erase y)

/-- The number of open choices that `anyOrder` meets in a list of this length. -/
def choicesOf (length : Nat) : Nat := length - 1

end Sys2Proof.Machine
end

