-- ==== Sys2Proof/Machine/Profile.lean ====
section
/-! DEFINITION. Profiles: their fields and ranges (R154), the factory profile (R156), one field by its selector
(R174), and the 250 bytes of a profile slot with their check value (section 12.4). -/

namespace Sys2Proof.Machine

/-- The kinds a standing entry can name (R154). -/
inductive StandingKind where
  | common
  | shared
  deriving DecidableEq, Repr

/-- What a standing entry gives one port (R154). -/
inductive EntryRight where
  | none
  | read
  | readWrite
  deriving DecidableEq, Repr

/-- One standing entry of a profile (R154). -/
structure StandingEntry where
  used : Bool
  base : Nat
  count : Nat
  kind : StandingKind
  rights : Vector EntryRight 4
  scrub : Bool
  deriving DecidableEq, Repr

/-- The policy fields of one port (R154). -/
structure PortPolicy where
  reachBase : Nat
  reachLimit : Nat
  granuleQuota : Nat
  leaseQuota : Nat
  maxTerm : Nat
  indefiniteOk : Bool
  ackTimeout : Nat
  deriving DecidableEq, Repr

/-- A profile: the fields of R154 without valid mark or check value (R157). -/
structure Profile where
  poolGranules : Nat
  initScrub : Bool
  scrubOnRetire : Bool
  ports : Vector PortPolicy 4
  standing : Vector StandingEntry 16
  deriving DecidableEq, Repr

/-- A standing entry with used no. The values of its other fields are not given by R156 (log 8). -/
def unusedEntry : StandingEntry :=
  { used := false, base := 0, count := 0, kind := .common, rights := Vector.replicate 4 .none, scrub := false }

/-- The policy of every port in the factory slot (R156). -/
def factoryPolicy : PortPolicy :=
  { reachBase := 0, reachLimit := 4095, granuleQuota := 1024, leaseQuota := 16, maxTerm := 10000,
    indefiniteOk := false, ackTimeout := 5 }

/-- The profile of the factory slot 0 (R156). -/
def factoryProfile : Profile :=
  { poolGranules := 4096, initScrub := true, scrubOnRetire := true, ports := Vector.replicate 4 factoryPolicy,
    standing := Vector.replicate 16 unusedEntry }

/-! ## Ranges (R154) -/

/-- Every field of a port's policy lies in its range. -/
def PortPolicy.inRange (q : PortPolicy) : Bool :=
  decide (q.reachBase ≤ 65535 ∧ q.reachLimit ≤ 65535 ∧ q.granuleQuota ≤ 65536 ∧ q.leaseQuota ≤ 64 ∧
    1 ≤ q.maxTerm ∧ q.maxTerm ≤ 65535 ∧ 1 ≤ q.ackTimeout ∧ q.ackTimeout ≤ 100)

/-- Every field of a standing entry lies in its range. -/
def StandingEntry.inRange (e : StandingEntry) : Bool := decide (e.base ≤ 65535 ∧ e.count ≤ 65536)

/-- Every field of the profile lies in its range. -/
def Profile.inRange (f : Profile) : Bool :=
  decide (1 ≤ f.poolGranules ∧ f.poolGranules ≤ 65536) && f.ports.toList.all PortPolicy.inRange &&
    f.standing.toList.all StandingEntry.inRange

/-! ## Codes of values (section 12.1) -/

/-- On/off and yes/no. -/
def boolCode (b : Bool) : Nat := if b then 1 else 0

/-- The on/off or yes/no of a code; none outside the two codes. -/
def boolOfCode : Nat → Option Bool
  | 0 => some false
  | 1 => some true
  | _ => none

/-- The kind code of a standing kind. -/
def StandingKind.code : StandingKind → Nat
  | .shared => 2
  | .common => 3

/-- The standing kind of a kind code. -/
def standingKindOfCode : Nat → Option StandingKind
  | 2 => some .shared
  | 3 => some .common
  | _ => none

/-- The right code of an entry's right. -/
def EntryRight.code : EntryRight → Nat
  | .none => 0
  | .read => 1
  | .readWrite => 2

/-- The entry right of a right code. -/
def entryRightOfCode : Nat → Option EntryRight
  | 0 => some .none
  | 1 => some .read
  | 2 => some .readWrite
  | _ => none

/-! ## One field (R174) -/

/-- The fields that FIELD_READ and FIELD_WRITE name, with the port and the entry that each takes. -/
inductive ProfileField where
  | poolGranules
  | initScrub
  | scrubOnRetire
  | reachBase (p : Port)
  | reachLimit (p : Port)
  | granuleQuota (p : Port)
  | leaseQuota (p : Port)
  | maxTerm (p : Port)
  | indefiniteOk (p : Port)
  | ackTimeout (p : Port)
  | entryUsed (e : EntryNumber)
  | entryBase (e : EntryNumber)
  | entryCount (e : EntryNumber)
  | entryKind (e : EntryNumber)
  | entryRight (e : EntryNumber) (p : Port)
  | entryScrub (e : EntryNumber)
  deriving DecidableEq, Repr

/-- A byte that names a port, or none above 3. -/
def portOfByte (b : Byte) : Option Port := if h : b.toNat < 4 then some ⟨b.toNat, h⟩ else none

/-- A byte that names a standing entry, or none above 15. -/
def entryOfByte (b : Byte) : Option EntryNumber := if h : b.toNat < 16 then some ⟨b.toNat, h⟩ else none

/-- The field of a selector (R174, section 12.3): a byte that the field does not take is not looked at. -/
def ProfileField.ofSelector (x : Selector) : Option ProfileField :=
  match x.code.toNat with
  | 0x01 => some .poolGranules
  | 0x02 => some .initScrub
  | 0x03 => some .scrubOnRetire
  | 0x04 => (portOfByte x.port).map .reachBase
  | 0x05 => (portOfByte x.port).map .reachLimit
  | 0x06 => (portOfByte x.port).map .granuleQuota
  | 0x07 => (portOfByte x.port).map .leaseQuota
  | 0x08 => (portOfByte x.port).map .maxTerm
  | 0x09 => (portOfByte x.port).map .indefiniteOk
  | 0x0A => (portOfByte x.port).map .ackTimeout
  | 0x0B => (entryOfByte x.entry).map .entryUsed
  | 0x0C => (entryOfByte x.entry).map .entryBase
  | 0x0D => (entryOfByte x.entry).map .entryCount
  | 0x0E => (entryOfByte x.entry).map .entryKind
  | 0x0F => (entryOfByte x.entry).bind (fun e => (portOfByte x.port).map (.entryRight e))
  | 0x10 => (entryOfByte x.entry).map .entryScrub
  | _ => none

/-- A change of one port's policy. -/
def Profile.withPolicy (f : Profile) (p : Port) (q : PortPolicy) : Profile := { f with ports := f.ports.set p q }

/-- A change of one standing entry. -/
def Profile.withEntry (f : Profile) (n : EntryNumber) (e : StandingEntry) : Profile :=
  { f with standing := f.standing.set n e }

/-- The value of a field, in the coding of FIELD_WRITE (section 12.3.1). -/
def Profile.fieldValue (f : Profile) : ProfileField → Nat
  | .poolGranules => f.poolGranules
  | .initScrub => boolCode f.initScrub
  | .scrubOnRetire => boolCode f.scrubOnRetire
  | .reachBase p => (f.ports.get p).reachBase
  | .reachLimit p => (f.ports.get p).reachLimit
  | .granuleQuota p => (f.ports.get p).granuleQuota
  | .leaseQuota p => (f.ports.get p).leaseQuota
  | .maxTerm p => (f.ports.get p).maxTerm
  | .indefiniteOk p => boolCode (f.ports.get p).indefiniteOk
  | .ackTimeout p => (f.ports.get p).ackTimeout
  | .entryUsed e => boolCode (f.standing.get e).used
  | .entryBase e => (f.standing.get e).base
  | .entryCount e => (f.standing.get e).count
  | .entryKind e => (f.standing.get e).kind.code
  | .entryRight e p => ((f.standing.get e).rights.get p).code
  | .entryScrub e => boolCode (f.standing.get e).scrub

/-- A value between two bounds, or none. -/
def within (low high v : Nat) : Option Nat := if low ≤ v ∧ v ≤ high then some v else none

/-- The profile with one field replaced; none when the value lies outside the field's range (R174). -/
def Profile.writeField (f : Profile) (x : ProfileField) (v : Nat) : Option Profile :=
  match x with
  | .poolGranules => (within 1 65536 v).map (fun n => { f with poolGranules := n })
  | .initScrub => (boolOfCode v).map (fun b => { f with initScrub := b })
  | .scrubOnRetire => (boolOfCode v).map (fun b => { f with scrubOnRetire := b })
  | .reachBase p => (within 0 65535 v).map (fun n => f.withPolicy p { f.ports.get p with reachBase := n })
  | .reachLimit p => (within 0 65535 v).map (fun n => f.withPolicy p { f.ports.get p with reachLimit := n })
  | .granuleQuota p => (within 0 65536 v).map (fun n => f.withPolicy p { f.ports.get p with granuleQuota := n })
  | .leaseQuota p => (within 0 64 v).map (fun n => f.withPolicy p { f.ports.get p with leaseQuota := n })
  | .maxTerm p => (within 1 65535 v).map (fun n => f.withPolicy p { f.ports.get p with maxTerm := n })
  | .indefiniteOk p => (boolOfCode v).map (fun b => f.withPolicy p { f.ports.get p with indefiniteOk := b })
  | .ackTimeout p => (within 1 100 v).map (fun n => f.withPolicy p { f.ports.get p with ackTimeout := n })
  | .entryUsed e => (boolOfCode v).map (fun b => f.withEntry e { f.standing.get e with used := b })
  | .entryBase e => (within 0 65535 v).map (fun n => f.withEntry e { f.standing.get e with base := n })
  | .entryCount e => (within 0 65536 v).map (fun n => f.withEntry e { f.standing.get e with count := n })
  | .entryKind e => (standingKindOfCode v).map (fun k => f.withEntry e { f.standing.get e with kind := k })
  | .entryRight e p =>
    (entryRightOfCode v).map
      (fun r => f.withEntry e { f.standing.get e with rights := (f.standing.get e).rights.set p r })
  | .entryScrub e => (boolOfCode v).map (fun b => f.withEntry e { f.standing.get e with scrub := b })

/-- A write of the field starts a wait-queue scan (R28, R65, R174). -/
def ProfileField.startsScan : ProfileField → Bool
  | .reachBase _ | .reachLimit _ | .granuleQuota _ | .leaseQuota _ => true
  | .poolGranules | .initScrub | .scrubOnRetire | .maxTerm _ | .indefiniteOk _ | .ackTimeout _ => false
  | .entryUsed _ | .entryBase _ | .entryCount _ | .entryKind _ | .entryRight _ _ | .entryScrub _ => false

/-! ## The slot image (section 12.4) -/

/-- The 12 bytes of a port block. -/
def PortPolicy.bytes (q : PortPolicy) : List Byte :=
  leBytes 2 q.reachBase ++ leBytes 2 q.reachLimit ++ leBytes 3 q.granuleQuota ++ leBytes 1 q.leaseQuota ++
    leBytes 2 q.maxTerm ++ leBytes 1 (boolCode q.indefiniteOk) ++ leBytes 1 q.ackTimeout

/-- The 12 bytes of an entry block. -/
def StandingEntry.bytes (e : StandingEntry) : List Byte :=
  leBytes 1 (boolCode e.used) ++ leBytes 2 e.base ++ leBytes 3 e.count ++ leBytes 1 e.kind.code ++
    e.rights.toList.flatMap (fun r => leBytes 1 r.code) ++ leBytes 1 (boolCode e.scrub)

/-- Bytes 0 to 244 of a slot that holds the profile. -/
def Profile.bytes (f : Profile) : List Byte :=
  leBytes 3 f.poolGranules ++ leBytes 1 (boolCode f.initScrub) ++ leBytes 1 (boolCode f.scrubOnRetire) ++
    f.ports.toList.flatMap PortPolicy.bytes ++ f.standing.toList.flatMap StandingEntry.bytes

/-- One bit of the CRC-32 with reflected input and output: EDB88320h is 04C11DB7h reflected. -/
def crc32Bit (c : BitVec 32) : BitVec 32 := if c.getLsbD 0 then (c >>> 1) ^^^ 0xEDB88320 else c >>> 1

/-- One byte of the CRC-32. -/
def crc32Byte (c : BitVec 32) (b : Byte) : BitVec 32 :=
  crc32Bit (crc32Bit (crc32Bit (crc32Bit (crc32Bit (crc32Bit (crc32Bit (crc32Bit (c ^^^ b.setWidth 32))))))))

/-- The check value of a slot: initial value FFFFFFFFh, reflected, with a final inversion (section 12.4). -/
def crc32 (bs : List Byte) : BitVec 32 := ~~~(bs.foldl crc32Byte 0xFFFFFFFF)

/-- The check value of a slot that holds the profile. -/
def Profile.checkValue (f : Profile) : BitVec 32 := crc32 f.bytes

end Sys2Proof.Machine
end

