-- ==== Sys2Proof/Machine/State.lean ====
section
/-! DEFINITION. The state of the LC-416, block by block (00_scope 2.1), with the queue of commands and events that
wait to be taken; the reasons for which a step stops; and the state after power-on reset of a part as shipped. -/

namespace Sys2Proof.Machine

/-! ## Lease table (Chapter 1) -/

/-- The states of a lease record (R1). -/
inductive LeaseState where
  | free
  | active
  | notice
  | draining
  deriving DecidableEq, Repr

/-- The kinds of a lease (R5). -/
inductive LeaseKind where
  | exclusive
  | shared
  | common
  deriving DecidableEq, Repr

/-- What a holder may do under a lease (R6). -/
inductive Right where
  | read
  | readWrite
  deriving DecidableEq, Repr

/-- Why a lease is being taken away (R11). -/
inductive RevokeCause where
  | released
  | expired
  | forced
  | fenced
  deriving DecidableEq, Repr

/-- A holder entry (R6). The term is in milliseconds, 0 for indefinite. -/
structure Holder where
  port : Port
  right : Right
  term : Nat
  deadline : Option ClockValue
  deriving DecidableEq, Repr

/-- The notice field: the pending forced revocation (R11). -/
structure Notice where
  cause : RevokeCause
  deadline : ClockValue
  deriving DecidableEq, Repr

/-- A lease record (R1). Its index is its place in the table. -/
structure LeaseRecord where
  generation : BitVec 16
  state : LeaseState
  kind : Option LeaseKind
  standing : Option EntryNumber
  written : Bool
  base : Nat
  count : Nat
  holders : List Holder
  creator : Option Port
  notice : Option Notice
  revokeCause : Option RevokeCause
  drainCount : Nat
  damage : Option PoolAddress
  retireHeld : Bool
  deriving DecidableEq, Repr

/-- A FREE record: every field but the generation at its empty value (R1, R2). -/
def emptyRecord (generation : BitVec 16) : LeaseRecord :=
  { generation := generation, state := .free, kind := none, standing := none, written := false, base := 0,
    count := 0, holders := [], creator := none, notice := none, revokeCause := none, drainCount := 0,
    damage := none, retireHeld := false }

/-- An extent: a base granule and a count of granules (00_scope 4.1). -/
structure Extent where
  base : Nat
  count : Nat
  deriving DecidableEq, Repr

/-! ## Wait queue (Chapter 4) -/

/-- The kinds an ACQUIRE can ask for (R62). -/
inductive AcquireKind where
  | exclusive
  | shared
  deriving DecidableEq, Repr

/-- An entry of the wait queue (R62). Its arrival order is its place in the list. -/
structure WaitEntry where
  port : Port
  tag : CommandTag
  kind : AcquireKind
  base : Nat
  count : Nat
  term : Nat
  deadline : ClockValue
  deriving DecidableEq, Repr

/-! ## Packets from the part (section 12.2) -/

/-- The reasons for which an access is refused (R109). -/
inductive RefusalReason where
  | notOnline
  | badLength
  | tagInUse
  | outOfPool
  | readOnly
  | revoked
  | notHolder
  | noLease
  deriving DecidableEq, Repr

/-- The status of a READ_DONE (R109). -/
inductive ReadStatus where
  | ok
  | poolError
  | refused (reason : RefusalReason)
  deriving DecidableEq, Repr

/-- What a FOUND answer reports of a lease (R42). -/
structure FoundLease where
  handle : Handle
  kind : Option LeaseKind
  state : LeaseState
  written : Bool
  standing : Option EntryNumber
  base : Nat
  count : Nat
  holders : List Port
  deriving DecidableEq, Repr

/-- The 27 statuses of a RESPONSE, four of them with result fields (R42, R46). -/
inductive Answer where
  | ok
  | granted (handle : Handle) (deadline : Option ClockValue)
  | joined (deadline : Option ClockValue)
  | renewed (deadline : Option ClockValue)
  | found (lease : FoundLease)
  | none
  | scrubbing
  | cancelled
  | malformed
  | outOfPool
  | deniedTerm
  | deniedReach
  | deniedQuota
  | deniedConflict
  | deniedTimeout
  | noRecord
  | waitFull
  | stale
  | standing
  | notShared
  | notExclusive
  | notHolder
  | alreadyHolder
  | revoking
  | revoked
  | notWaiting
  | tagInUse
  deriving DecidableEq, Repr

/-- The event kinds of a notification with their details (R126). -/
inductive NoticeEvent where
  | damaged (address : PoolAddress)
  | revokeNotice (deadline : ClockValue)
  | expired
  | revoked (cause : RevokeCause)
  deriving DecidableEq, Repr

/-- What a WELCOME carries (R144). -/
structure Welcome where
  epoch : BitVec 8
  port : Port
  poolGranules : Nat
  policy : PortPolicy
  deriving DecidableEq, Repr

/-- A packet from the part. -/
inductive OutPacket where
  | readDone (tag : ReadTag) (status : ReadStatus) (data : List Byte)
  | writeRefused (address : PoolAddress) (length : BitVec 16) (reason : RefusalReason)
  | response (tag : CommandTag) (answer : Answer)
  | notice (sequence : BitVec 16) (handle : Handle) (event : NoticeEvent)
  | welcome (w : Welcome)
  deriving DecidableEq, Repr

/-! ## Notification unit (Chapter 8) -/

/-- A pending entry (R125). -/
structure PendingEntry where
  handle : Handle
  event : NoticeEvent
  deriving DecidableEq, Repr

/-- The in-flight notification with its redelivery count (R125). -/
structure InFlight where
  sequence : BitVec 16
  handle : Handle
  event : NoticeEvent
  redeliveries : Nat
  deriving DecidableEq, Repr

/-- The notification unit of a port (R125). The ack timer is none when it is stopped. -/
structure NotificationUnit where
  entries : List PendingEntry
  inFlight : Option InFlight
  sequence : BitVec 16
  ackTimer : Option ClockValue
  deriving DecidableEq, Repr

/-! ## Port controller (Chapter 9) -/

/-- The port states (R140). -/
inductive PortState where
  | down
  | linked
  | online
  | fencing
  deriving DecidableEq, Repr

/-- The fence causes (R140). -/
inductive FenceCause where
  | linkLost
  | unresponsive
  | overflow
  | reset
  | rehello
  deriving DecidableEq, Repr

/-- The kind of an access in a refusal record (R121). -/
inductive AccessKind where
  | read
  | write
  deriving DecidableEq, Repr

/-- The refusal record of a port (R121). -/
structure RefusalRecord where
  kind : AccessKind
  address : PoolAddress
  reason : RefusalReason
  more : Bool
  deriving DecidableEq, Repr

/-- All that the blocks hold for one host port: the port controller's fields (R140) with its queues and refusal
record, the command unit's outstanding command tags (R43, bit t for tag t), the access path's read tags in use
(R112, bit t for tag t), and the notification unit (R125). `lineUp` is the state of the link itself below the
packets: it follows every link up and link loss, those that are not taken as events included (R139, R152). -/
structure PortRecord where
  state : PortState
  linkFlag : Bool
  epoch : BitVec 8
  helloPending : Option HostId
  fenceCause : Option FenceCause
  hostId : HostId
  outbound : List OutPacket
  commandQueue : List CommandPacket
  accessQueue : List Access
  refusal : Option RefusalRecord
  commandTags : BitVec 8
  readTags : BitVec 32
  unit : NotificationUnit
  lineUp : Bool
  deriving DecidableEq, Repr

/-! ## Access path and scrub engine (Chapters 6 and 7) -/

/-- The kind of an operation in a host slot, with a READ's tag (R114). -/
inductive SlotKind where
  | read (tag : ReadTag)
  | write
  deriving DecidableEq, Repr

/-- An occupied host slot (R114). -/
structure HostSlot where
  port : Port
  epoch : BitVec 8
  kind : SlotKind
  address : PoolAddress
  length : Nat
  lease : RecordIndex
  orphaned : Bool
  deriving DecidableEq, Repr

/-! ## Profile store (Chapter 10) -/

/-- The active geometry (R157). -/
structure Geometry where
  poolGranules : Nat
  initScrub : Bool
  deriving DecidableEq, Repr

/-- A user slot: its image, its valid mark and its check value (R154). -/
structure ProfileSlot where
  image : Profile
  validMark : Bool
  check : BitVec 32
  deriving DecidableEq, Repr

/-- The boot cell: the slot number and its complement (R155, section 12.4). -/
structure BootCell where
  number : Byte
  complement : Byte
  deriving DecidableEq, Repr

/-- An NV operation in progress (R162). A save's target is user slot n + 1. -/
inductive NvOperation where
  | save (target : Fin 3) (image : Profile)
  | select (number : Fin 4)
  deriving DecidableEq, Repr

/-- Where the running profile of a start-up came from (R158, R161). -/
inductive StartUpSource where
  | slot (number : Fin 4)
  | kept
  deriving DecidableEq, Repr

/-- Why a power-on start-up fell back to slot 0 (R158). -/
inductive FallbackReason where
  | bootCellInvalid
  | slotInvalid
  deriving DecidableEq, Repr

/-- The outcome of a standing entry at start-up (R159). -/
inductive EntryOutcome where
  | unused
  | accepted (i : RecordIndex)
  | zeroCount
  | beyondPool
  | noHolder
  | sharedWriter
  | overlap
  deriving DecidableEq, Repr

/-- The start-up report (R158, R159). -/
structure StartUpReport where
  source : StartUpSource
  fallback : Option FallbackReason
  outcomes : Vector EntryOutcome 16
  deriving DecidableEq, Repr

/-! ## Service unit (Chapter 11) -/

/-- The result codes of the service port (R168). -/
inductive ServiceResult where
  | ok
  | accepted
  | busy
  | badFrame
  | badCommand
  | badValue
  | stale
  | notLive
  | refusedFactory
  | invalidSlot
  deriving DecidableEq, Repr

/-- A response in the response buffer: the code echoed, the result and the result fields (R166, R182). -/
structure ServiceResponse where
  code : Byte
  result : ServiceResult
  fields : List Byte
  deriving DecidableEq, Repr

/-- Where the part stands between a reset and readiness (R158, R160, R161). `powerOnHeld`: power-on start-up has
not begun because RESET# is asserted. `resetHeld`: RESET# is asserted after a device reset. `startingUp`: every
step of start-up up to the scrub queue is done, and the memory controller has not settled; the flag says whether
it is a power-on start-up. -/
inductive Phase where
  | powerOnHeld
  | resetHeld
  | startingUp (powerOn : Bool)
  | ready
  deriving DecidableEq, Repr

/-! ## The whole state -/

/-- The state of the LC-416 and the queue of what waits to be taken, first in, first out. `operations` and `pool`
are what the memory controller holds for the part. `choices` is the model's own counter of open choices. -/
structure State where
  pending : List Instr
  phase : Phase
  clock : ClockValue
  leases : Vector LeaseRecord 256
  held : List RecordIndex
  ports : Vector PortRecord 4
  waitQueue : List WaitEntry
  commandServed : Port
  accessServed : Port
  hostSlots : Vector (Option HostSlot) 63
  scrubSlot : Option Nat
  scrubQueue : List Extent
  operations : List PoolOperation
  pool : Pool
  userSlots : Vector ProfileSlot 3
  bootCell : BootCell
  running : Profile
  geometry : Geometry
  standingSet : Vector StandingEntry 16
  report : StartUpReport
  nvOperation : Option NvOperation
  response : Option ServiceResponse
  alertCauses : BitVec 12
  alertMaskBits : BitVec 12
  choices : Nat
  deriving DecidableEq, Repr

/-! ## Reasons to stop -/

/-- Why the machine stops with a fault. There is no reason: every step of the LC-416 either has the effect the
manual gives it or cannot occur, and a step that cannot occur is refused. -/
inductive Fault where
  deriving DecidableEq, Repr

/-- Why a step is refused. But for the first, each constructor names an event that the manual says does not occur
in the state at hand, so that it has no effect to model. Refusing it is safe: no claim about a next state can be
proved from an event that the part never meets. -/
inductive Refusal where
  /-- Raised by `exec` for a step that has no meaning in the model. Safe. -/
  | notModelled (mnemonic : String)
  /-- Raised by the five arrival steps when the link of the port is down: "A packet arrives only between a link
  up and the next link loss" (R139). Safe. -/
  | linkIsDown
  /-- Raised by an arrival step whose packet is of another row's kind: that row is the step that occurs. Safe. -/
  | packetOfAnotherRow
  /-- Raised by the arrival of a ninth COMMAND or access while eight wait: "A ninth COMMAND never arrives while
  eight wait in the command queue" (R139). Safe. -/
  | noCredit
  /-- Raised by a link up while the link is up or a link loss while it is down: the two "alternate on each port"
  (R139, R142). Safe. -/
  | linkEventsAlternate
  /-- Raised by PACKET_SENT on a port whose outbound list is empty: there is no head to send (R141). Safe. -/
  | nothingToSend
  /-- Raised by a command step when the next command that the command unit takes is of another row, or when no
  command waits (R41). Safe. -/
  | commandOfAnotherRow
  /-- Raised by a taking when the next access that the slot arbiter takes is of the other row, or when no access
  waits (R106). Safe. -/
  | accessOfAnotherRow
  /-- Raised by a taking when every host slot is occupied: "When every host slot is occupied, the arbiter takes
  nothing" (R106). Safe. -/
  | noFreeHostSlot
  /-- Raised by a completion when the slot holds no operation of that row (R117), or when no zero-fill is in
  flight (R96). Safe. -/
  | noSuchOperation
  /-- Raised by an expiry whose entry, holder, notice or timer does not stand: "A wait deadline reached by an entry
  that has already left the queue is not acted on" (R69; R23, R82, R132). Safe. -/
  | noSuchDeadline
  /-- Raised by an expiry whose deadline the lease clock has not reached (R21). Safe. -/
  | deadlineNotReached
  /-- Raised by BAD_FRAME and BAD_COMMAND when the transfer is not one that R166 answers so, and so by a read
  transfer (R167). Safe. -/
  | transferOfAnotherRow
  /-- Raised by NV_OPERATION_COMPLETE when no NV operation is busy: a completion of an abandoned operation "is not
  taken afterwards" (R164). Safe. -/
  | noNvOperation
  /-- Raised by an assertion of RESET# while it is asserted, or a release while it is not (R161, R173). Safe. -/
  | resetLineUnchanged
  /-- Raised by BECOME_READY when no start-up waits for the memory controller (R160). Safe. -/
  | notStartingUp
  deriving DecidableEq, Repr

/-! ## Reset -/

/-- A notification unit after either reset (R125). -/
def emptyUnit : NotificationUnit := { entries := [], inFlight := none, sequence := 0, ackTimer := none }

/-- A port after power-on reset (R152). The link is down: the first link event after power-on is a link up
(R139). -/
def powerOnPort : PortRecord :=
  { state := .down, linkFlag := false, epoch := 0, helloPending := none, fenceCause := none, hostId := 0,
    outbound := [], commandQueue := [], accessQueue := [], refusal := none, commandTags := 0, readTags := 0,
    unit := emptyUnit, lineUp := false }

/-- A user slot that has never been saved: invalid (R154). Its image is never read (log 9). -/
def unsavedSlot : ProfileSlot := { image := factoryProfile, validMark := false, check := 0 }

/-- The boot cell as shipped: it names slot 0 and is valid (R155). -/
def shippedBootCell : BootCell := { number := 0, complement := 0xFF }

/-- The LC-416 as shipped, right after power-on reset with RESET# not asserted: power-on start-up has loaded the
factory slot and built the scrub queue, and the part is not yet ready (R156, R158). Field by field as R1, R16,
R21, R41, R73, R92, R102, R106, R124, R125, R152, R154, R155, R157, R162, R167 and R178 give. -/
def State.reset : State :=
  { pending := []
    phase := .startingUp true
    clock := 0
    leases := Vector.replicate 256 (emptyRecord 0)
    held := []
    ports := Vector.replicate 4 powerOnPort
    waitQueue := []
    commandServed := 3
    accessServed := 3
    hostSlots := Vector.replicate 63 none
    scrubSlot := none
    scrubQueue := [⟨0, 4096⟩]
    operations := []
    pool := { cells := [], backgrounds := [], powerOn := 0 }
    userSlots := Vector.replicate 3 unsavedSlot
    bootCell := shippedBootCell
    running := factoryProfile
    geometry := { poolGranules := 4096, initScrub := true }
    standingSet := Vector.replicate 16 unusedEntry
    report := { source := .slot 0, fallback := none, outcomes := Vector.replicate 16 .unused }
    nvOperation := none
    response := none
    alertCauses := 0
    alertMaskBits := 0xFFF
    choices := 1 }

end Sys2Proof.Machine
end

