-- ==== Sys2Proof/Machine/Operands.lean ====
section
/-! DEFINITION. Reading the state and the operands of requests: the accessors of the tables, extents (R24),
lease-clock comparisons (R21), handles (R4), holdings (R7, R26), reach and quotas (R25, R27), conflict and blocking
(R29, R30, R33), and the round-robin choice of a port (R41, R106). Nothing here changes the state. -/

namespace Sys2Proof.Machine

/-! ## Tables -/

/-- A vector with a function applied to every element. -/
def mapVector {α β : Type} {n : Nat} (f : α → β) (v : Vector α n) : Vector β n :=
  ⟨(v.toList.map f).toArray, by simp⟩

/-- Lease record Li. -/
def State.lease (s : State) (i : RecordIndex) : LeaseRecord := s.leases[i]

/-- All that is held for a port. -/
def State.port (s : State) (p : Port) : PortRecord := s.ports[p]

/-- A host slot, none when it is free. -/
def State.slot (s : State) (k : HostSlotNumber) : Option HostSlot := s.hostSlots[k]

/-- The port's policy in the running profile (R157). -/
def State.policy (s : State) (p : Port) : PortPolicy := s.running.ports[p]

/-- A lease is live in ACTIVE, NOTICE and DRAINING (00_scope 4.3). -/
def LeaseRecord.live (r : LeaseRecord) : Bool := decide (r.state ≠ .free)

/-- A lease in ACTIVE or NOTICE, which admits accesses of its holders (R37, R81). -/
def LeaseRecord.inForce (r : LeaseRecord) : Bool := decide (r.state = .active ∨ r.state = .notice)

/-- The port's holder entry (R7). -/
def LeaseRecord.holderOf (r : LeaseRecord) (p : Port) : Option Holder := r.holders.find? (fun h => decide (h.port = p))

/-- The port is a holder of the lease (R7). -/
def LeaseRecord.holds (r : LeaseRecord) (p : Port) : Bool := r.holders.any (fun h => decide (h.port = p))

/-- The extent of a record. -/
def LeaseRecord.extent (r : LeaseRecord) : Extent := ⟨r.base, r.count⟩

/-- The extent of a wait-queue entry. -/
def WaitEntry.extent (e : WaitEntry) : Extent := ⟨e.base, e.count⟩

/-- The lowest-index FREE record (R35). -/
def State.lowestFree (s : State) : Option RecordIndex :=
  (List.finRange 256).find? (fun i => decide ((s.lease i).state = .free))

/-- The lowest-numbered free host slot (R107). -/
def State.freeSlot (s : State) : Option HostSlotNumber :=
  (List.finRange 63).find? (fun k => decide (s.slot k = none))

/-- The host slots that hold accesses of the port. -/
def State.slotsOf (s : State) (p : Port) : List HostSlot :=
  s.hostSlots.toList.filterMap id |>.filter (fun x => decide (x.port = p))

/-! ## The extent index (R15) -/

/-- A record index put in its place by base, behind those of equal base. -/
def State.insertByBase (s : State) (i : RecordIndex) : List RecordIndex → List RecordIndex
  | [] => [i]
  | j :: rest => if (s.lease i).base < (s.lease j).base then i :: j :: rest else j :: s.insertByBase i rest

/-- The extent index: the live records ordered by base, those of equal base by index. R15 makes it a function of
the records, so it is not stored beside them. -/
def State.extentIndex (s : State) : List RecordIndex :=
  ((List.finRange 256).filter (fun i => (s.lease i).live)).foldl (fun l i => s.insertByBase i l) []

/-! ## Extents (R24) -/

/-- The last granule of an extent. -/
def Extent.last (e : Extent) : Nat := e.base + e.count - 1

/-- Two extents overlap. -/
def Extent.overlaps (a b : Extent) : Bool := decide (a.base ≤ b.last ∧ b.base ≤ a.last)

/-- The extent covers the granule. -/
def Extent.covers (e : Extent) (g : Nat) : Bool := decide (e.base ≤ g ∧ g ≤ e.last)

/-- The extent is in the pool of this size; the sum does not wrap. -/
def Extent.inPool (e : Extent) (granules : Nat) : Bool := decide (1 ≤ e.count ∧ e.base + e.count ≤ granules)

/-- The granule lies in the scrub queue (R92). -/
def State.inScrubQueue (s : State) (g : Nat) : Bool := s.scrubQueue.any (fun e => e.covers g)

/-! ## Lease-clock values (R21) -/

/-- The first value is at or after the second: their difference modulo 2^32 is below 2^31. -/
def atOrAfter (a b : ClockValue) : Bool := decide ((a - b).toNat < 2 ^ 31)

/-- The first value is earlier than the second. -/
def earlier (b a : ClockValue) : Bool := atOrAfter a b && decide (a ≠ b)

/-- The deadline is reached. -/
def State.reached (s : State) (deadline : ClockValue) : Bool := atOrAfter s.clock deadline

/-- Now plus a time in milliseconds, modulo 2^32. -/
def State.after (s : State) (ms : Nat) : ClockValue := s.clock + BitVec.ofNat 32 ms

/-- The deadline of a holder with this term: absent for term 0 (R22). -/
def State.holderDeadline (s : State) (term : Nat) : Option ClockValue := if term = 0 then none else some (s.after term)

/-! ## Handles (R4) -/

/-- The handle of a record as it stands. -/
def State.handleOf (s : State) (i : RecordIndex) : Handle := ⟨i, (s.lease i).generation⟩

/-- The handle resolves: its record is not FREE and has its generation. -/
def State.resolves (s : State) (h : Handle) : Bool :=
  (s.lease h.index).live && decide ((s.lease h.index).generation = h.generation)

/-! ## Policy tests -/

/-- The record counts in the port's holdings: live, not standing, and held by the port (R7). -/
def LeaseRecord.countsFor (r : LeaseRecord) (p : Port) : Bool := r.live && r.standing.isNone && r.holds p

/-- Leases held (R7, R26). -/
def State.leasesHeld (s : State) (p : Port) : Nat := (s.leases.toList.filter (fun r => r.countsFor p)).length

/-- Granules held: a sum of counts (R7, R26). -/
def State.granulesHeld (s : State) (p : Port) : Nat :=
  ((s.leases.toList.filter (fun r => r.countsFor p)).map (fun r => r.count)).sum

/-- The extent is within the port's reach (R25). -/
def State.withinReach (s : State) (p : Port) (e : Extent) : Bool :=
  decide ((s.policy p).reachBase ≤ e.base ∧ e.last ≤ (s.policy p).reachLimit)

/-- A holding of this many more granules passes the port's quota test (R27). -/
def State.quotaAllows (s : State) (p : Port) (count : Nat) : Bool :=
  decide (s.leasesHeld p + 1 ≤ (s.policy p).leaseQuota ∧ s.granulesHeld p + count ≤ (s.policy p).granuleQuota)

/-- The term is neither above MAX_TERM nor 0 while INDEFINITE_OK is off (R47, R51, R53). -/
def State.termAllowed (s : State) (p : Port) (term : Nat) : Bool :=
  decide (term ≤ (s.policy p).maxTerm) && (decide (term ≠ 0) || (s.policy p).indefiniteOk)

/-! ## Conflict and blocking -/

/-- The live lease stands in the way of a proposed extent of the kind that overlaps it (R29, R30). -/
def LeaseRecord.excludes (r : LeaseRecord) : AcquireKind → Bool
  | .exclusive => true
  | .shared => decide (r.kind = some .exclusive ∨ r.kind = some .common) || r.written || decide (r.state = .draining)

/-- The proposed extent conflicts (R29, R30). -/
def State.conflicts (s : State) (k : AcquireKind) (e : Extent) : Bool :=
  s.leases.toList.any (fun r => r.live && r.extent.overlaps e && r.excludes k) ||
    s.scrubQueue.any (fun x => x.overlaps e)

/-- The proposed extent is blocked by an older entry (R33). -/
def blocked (older : List WaitEntry) (e : Extent) : Bool := older.any (fun x => x.extent.overlaps e)

/-! ## Round robin -/

/-- The first port after the one served last that has something waiting (R41, R106). -/
def roundRobin (last : Port) (waiting : Port → Bool) : Option Port :=
  [last + 1, last + 2, last + 3, last].find? waiting

/-! ## Admission (R37) -/

/-- The right suffices for the access. -/
def Right.suffices : Right → AccessKind → Bool
  | .readWrite, _ => true
  | .read, .read => true
  | .read, .write => false

/-- The record covers the granule as a live lease. -/
def LeaseRecord.coversLive (r : LeaseRecord) (g : Nat) : Bool := r.live && r.extent.covers g

/-- The record admits the port's access to the granule (R37, step 1). -/
def LeaseRecord.admits (r : LeaseRecord) (p : Port) (k : AccessKind) (g : Nat) : Bool :=
  r.inForce && r.extent.covers g && r.holders.any (fun h => decide (h.port = p) && h.right.suffices k)

/-- What the admission lookup gives: the admitting lease, or a reason. -/
inductive Admission where
  | admitted (i : RecordIndex)
  | refused (reason : RefusalReason)
  deriving DecidableEq, Repr

/-- The admission lookup of an access of the port to the granule: the first step that decides (R37). -/
def State.admission (s : State) (p : Port) (k : AccessKind) (g : Nat) : Admission :=
  match (List.finRange 256).find? (fun i => (s.lease i).admits p k g) with
  | some i => .admitted i
  | none =>
    if decide (k = .write) && s.leases.toList.any (fun r => r.inForce && r.extent.covers g &&
        r.holders.any (fun h => decide (h.port = p ∧ h.right = .read))) then .refused .readOnly
    else if s.leases.toList.any (fun r => decide (r.state = .draining) && r.extent.covers g) then .refused .revoked
    else if s.leases.toList.any (fun r => r.coversLive g) then .refused .notHolder
    else .refused .noLease

/-! ## Profile slots and boot cell (R154, R155) -/

/-- A user slot is valid: its mark is present, its check value agrees, and every field is in range. -/
def ProfileSlot.valid (x : ProfileSlot) : Bool :=
  x.validMark && decide (x.check = x.image.checkValue) && x.image.inRange

/-- The image of a slot when the slot is valid. Slot 0 is the factory slot, valid at every event (R154). -/
def State.validImage (s : State) (n : Fin 4) : Option Profile :=
  if h : n.val = 0 then some factoryProfile
  else
    let x := s.userSlots[n.val - 1]'(by omega)
    if x.valid then some x.image else none

/-- The slot that a valid boot cell names: its second byte is the complement of the first, which is 0 to 3. -/
def BootCell.named (c : BootCell) : Option (Fin 4) :=
  if h : c.number.toNat < 4 then if c.complement = ~~~c.number then some ⟨c.number.toNat, h⟩ else none else none

end Sys2Proof.Machine
end

