-- ==== Sys2Proof/Machine/Flags.lean ====
section
/-! DEFINITION. The flags of the block: the twelve alert causes and ALERT# (R175, R176), and the sets of tags kept
as one bit per tag (R43, R112, section 12.3.1). -/

namespace Sys2Proof.Machine

/-- The alert causes (R175). -/
inductive AlertCause where
  | portFenced (p : Port)
  | portLink (p : Port)
  | damage
  | profileFault
  | nvDone
  | nvFailed
  deriving DecidableEq, Repr

/-- The bit of a cause in the cause set and in the mask (section 12.3). -/
def AlertCause.bit : AlertCause → Nat
  | .portFenced p => p.val
  | .portLink p => 4 + p.val
  | .damage => 8
  | .profileFault => 9
  | .nvDone => 10
  | .nvFailed => 11

/-- A set of w members with one member added. -/
def addMember {w : Nat} (set : BitVec w) (n : Nat) : BitVec w := set ||| BitVec.twoPow w n

/-- A set of w members with one member taken out. -/
def dropMember {w : Nat} (set : BitVec w) (n : Nat) : BitVec w := set &&& ~~~(BitVec.twoPow w n)

/-- A cause set (R175): setting a cause already set changes nothing. -/
def State.setAlert (s : State) (c : AlertCause) : State := { s with alertCauses := addMember s.alertCauses c.bit }

/-- A cause is in the set. -/
def State.hasAlert (s : State) (c : AlertCause) : Bool := s.alertCauses.getLsbD c.bit

/-- ALERT# is asserted: at least one cause is in the set and enabled in the mask (R176). The output is a function
of the two, so it changes at the events that change them and at no other. -/
def State.alertAsserted (s : State) : Bool := decide (s.alertCauses &&& s.alertMaskBits ≠ 0)

/-- RESET# is asserted (R161). -/
def State.resetAsserted (s : State) : Bool := decide (s.phase = .powerOnHeld ∨ s.phase = .resetHeld)

end Sys2Proof.Machine
end

