-- ==== Sys2Proof/Machine/Ops.lean ====
section
/-! DEFINITION. The operations that the steps share. An event of the LC-416 is indivisible, but some of its effects
come after all of its others: a fence for an overflow (R128, R141), the one wait-queue scan (R65), and the end of a
fence (R148). `Work` carries the state of an event under way with what is still due; `settle` makes what is due, in
the manual's order, and gives the state after the event. -/

namespace Sys2Proof.Machine

/-! ## Updates of one place -/

/-- The state with one lease record replaced. -/
def State.setLease (s : State) (i : RecordIndex) (r : LeaseRecord) : State := { s with leases := s.leases.set i r }

/-- The state with one port's record replaced. -/
def State.setPort (s : State) (p : Port) (r : PortRecord) : State := { s with ports := s.ports.set p r }

/-- The state with one host slot replaced. -/
def State.setSlot (s : State) (k : HostSlotNumber) (x : Option HostSlot) : State :=
  { s with hostSlots := s.hostSlots.set k x }

/-! ## An event under way -/

/-- An event under way: the state so far; the ports that a packet or an event has overflowed and that are to be
fenced (R128, R141); the ports whose fence is to end (R148); and whether a wait-queue scan is due (R65). -/
structure Work where
  st : State
  overflowed : List Port
  ending : List Port
  scanDue : Bool
  deriving DecidableEq, Repr

/-- An event that begins. -/
def Work.start (s : State) : Work := ⟨s, [], [], false⟩

/-- The event with its state changed. -/
def Work.onState (w : Work) (f : State → State) : Work := { w with st := f w.st }

/-- A scan is due after the event's other effects (R65). -/
def Work.needScan (w : Work) : Work := { w with scanDue := true }

/-- The port is to be fenced with cause OVERFLOW after the event's other effects (R128, R141). -/
def Work.overflow (w : Work) (p : Port) : Work :=
  if p ∈ w.overflowed then w else { w with overflowed := w.overflowed ++ [p] }

/-- The fence of the port is to end after the event's other effects (R146, R148). -/
def Work.endFence (w : Work) (p : Port) : Work :=
  if p ∈ w.ending then w else { w with ending := w.ending ++ [p] }

/-! ## Packets produced for a port (R141) -/

/-- A packet produced for a port joins the end of its outbound list. When the list holds 128 packets, the packet is
discarded, and a port in ONLINE is to be fenced with cause OVERFLOW. -/
def Work.send (w : Work) (p : Port) (k : OutPacket) : Work :=
  let r := w.st.port p
  if r.outbound.length < 128 then w.onState (fun s => s.setPort p { r with outbound := r.outbound ++ [k] })
  else if r.state = .online then w.overflow p
  else w

/-- A RESPONSE with a command's tag (R42). -/
def Work.respond (w : Work) (p : Port) (tag : CommandTag) (a : Answer) : Work := w.send p (.response tag a)

/-- The command tag becomes outstanding (R43). -/
def State.holdTag (s : State) (p : Port) (tag : CommandTag) : State :=
  s.setPort p { s.port p with commandTags := addMember (s.port p).commandTags tag.val }

/-- The command tag leaves the set of outstanding tags (R43). -/
def State.freeTag (s : State) (p : Port) (tag : CommandTag) : State :=
  s.setPort p { s.port p with commandTags := dropMember (s.port p).commandTags tag.val }

/-! ## Notifications (Chapter 8) -/

/-- The rank of an event kind (R126). -/
def NoticeEvent.rank : NoticeEvent → Nat
  | .damaged _ => 1
  | .revokeNotice _ => 2
  | .expired => 3
  | .revoked _ => 3

/-- The sequence after this one: from 65535 it wraps to 1 (R130). -/
def nextSequence (q : BitVec 16) : BitVec 16 := if q = 0xFFFF then 1 else q + 1

/-- A delivery: the oldest pending entry becomes the in-flight notification, its NOTICE is produced, and the ack
timer starts (R130). Nothing when the pending set is empty. -/
def Work.deliver (w : Work) (p : Port) : Work :=
  let r := w.st.port p
  match r.unit.entries with
  | [] => w
  | e :: rest =>
    let q := nextSequence r.unit.sequence
    let u : NotificationUnit :=
      { entries := rest, inFlight := some ⟨q, e.handle, e.event, 0⟩, sequence := q,
        ackTimer := some (w.st.after (w.st.policy p).ackTimeout) }
    (w.onState (fun s => s.setPort p { r with unit := u })).send p (.notice q e.handle e.event)

/-- The pending set with the entry of a handle replaced in its place, when the event's rank is equal or above
(R127). -/
def replaceEntry (h : Handle) (e : NoticeEvent) (l : List PendingEntry) : List PendingEntry :=
  l.map (fun x => if x.handle = h ∧ x.event.rank ≤ e.rank then ⟨h, e⟩ else x)

/-- An event raised for a port reaches its notification unit (R127, R128). -/
def Work.raise (w : Work) (p : Port) (h : Handle) (e : NoticeEvent) : Work :=
  let r := w.st.port p
  if r.state ≠ .online then w
  else if r.unit.entries.any (fun x => decide (x.handle = h)) then
    w.onState (fun s => s.setPort p { r with unit := { r.unit with entries := replaceEntry h e r.unit.entries } })
  else if r.unit.entries.length < 64 then
    let w' := w.onState (fun s =>
      s.setPort p { r with unit := { r.unit with entries := r.unit.entries ++ [⟨h, e⟩] } })
    if r.unit.inFlight.isNone then w'.deliver p else w'
  else w.overflow p

/-! ## Scrub queue (Chapter 6) -/

/-- The scrub engine issues the zero-fill of the first granule of the head extent through slot 63; with an empty
queue it stays IDLE (R94, R95). -/
def State.issueZeroFill (s : State) : State :=
  match s.scrubQueue with
  | [] => { s with scrubSlot := none }
  | e :: _ => { s with scrubSlot := some e.base }

/-- An extent joins the end of the scrub queue. When it joins an empty queue and the part is ready, the engine
leaves IDLE (R92, R94). -/
def State.joinScrubQueue (s : State) (e : Extent) : State :=
  let s' := { s with scrubQueue := s.scrubQueue ++ [e] }
  if s.scrubQueue = [] ∧ s.phase = .ready ∧ s.scrubSlot = none then s'.issueZeroFill else s'

/-! ## Lease table (Chapters 1 and 5) -/

/-- The right of the holder that a grant creates (R17). -/
def AcquireKind.right : AcquireKind → Right
  | .exclusive => .readWrite
  | .shared => .read

/-- The lease kind that a grant creates (R17). -/
def AcquireKind.leaseKind : AcquireKind → LeaseKind
  | .exclusive => .exclusive
  | .shared => .shared

/-- The record of a lease granted by ACQUIRE (R17). -/
def State.grantedRecord (s : State) (i : RecordIndex) (p : Port) (k : AcquireKind) (e : Extent) (term : Nat) :
    LeaseRecord :=
  { generation := (s.lease i).generation + 1
    state := .active
    kind := some k.leaseKind
    standing := none
    written := decide (k = .exclusive)
    base := e.base
    count := e.count
    holders := [⟨p, k.right, term, s.holderDeadline term⟩]
    creator := some p
    notice := none
    revokeCause := none
    drainCount := 0
    damage := none
    retireHeld := false }

/-- A grant of a record to a port with its GRANTED answer (R17, R67). -/
def Work.grant (w : Work) (i : RecordIndex) (p : Port) (tag : CommandTag) (k : AcquireKind) (e : Extent)
    (term : Nat) : Work :=
  let w' := w.onState (fun s => s.setLease i (s.grantedRecord i p k e term))
  w'.respond p tag (.granted (w'.st.handleOf i) (w.st.holderDeadline term))

/-- The record becomes FREE: every field but its generation takes its empty value (R2). -/
def State.freeRecord (s : State) (i : RecordIndex) : State := s.setLease i (emptyRecord (s.lease i).generation)

/-- The extent of a retiring lease must be scrubbed (R86). -/
def State.needsScrub (s : State) (r : LeaseRecord) : Bool :=
  match r.standing with
  | none => r.written && s.running.scrubOnRetire
  | some n => decide (r.kind = some .common) && s.standingSet[n].scrub

/-- The retirement step of a DRAINING lease with drain count 0: the record becomes FREE and a scan is due (R87),
its extent joining the scrub queue where it must be scrubbed, or the retirement is held (R86, R88). -/
def Work.retire (w : Work) (i : RecordIndex) : Work :=
  let r := w.st.lease i
  if w.st.needsScrub r then
    if w.st.scrubQueue.length < 512 then
      (w.onState (fun s => (s.freeRecord i).joinScrubQueue r.extent)).needScan
    else
      w.onState (fun s => { s.setLease i { r with retireHeld := true } with held := s.held ++ [i] })
  else (w.onState (fun s => s.freeRecord i)).needScan

/-- The record of a lease that enters DRAINING: a lease in NOTICE keeps cause FORCED (R75, R84). -/
def LeaseRecord.toDraining (r : LeaseRecord) (c : RevokeCause) : LeaseRecord :=
  { r with
    state := .draining
    holders := []
    notice := none
    revokeCause := some (if r.state = .notice then .forced else c) }

/-- A lease enters DRAINING and, at drain count 0, makes its retirement step (R84). -/
def Work.drain (w : Work) (i : RecordIndex) (c : RevokeCause) : Work :=
  let w' := w.onState (fun s => s.setLease i ((s.lease i).toDraining c))
  if (w'.st.lease i).drainCount = 0 then w'.retire i else w'

/-- The holder list without a port's entry; the other entries keep their order (R75). -/
def LeaseRecord.withoutHolder (r : LeaseRecord) (p : Port) : LeaseRecord :=
  { r with holders := r.holders.filter (fun h => decide (h.port ≠ p)) }

/-- A port's holder entry is removed. The last removal moves the lease to DRAINING with this cause (R75). -/
def Work.removeHolder (w : Work) (i : RecordIndex) (p : Port) (c : RevokeCause) : Work :=
  let w' := w.onState (fun s => s.setLease i ((s.lease i).withoutHolder p))
  if (w'.st.lease i).holders = [] then w'.drain i c else w'

/-- Every holder is removed in holder order, REVOKED is raised for each, and the lease enters DRAINING with cause
FORCED (R78, R82). -/
def Work.revokeAll (w : Work) (i : RecordIndex) : Work :=
  ((w.st.lease i).holders.foldl
    (fun x h => (x.onState (fun s => s.setLease i ((s.lease i).withoutHolder h.port))).raise h.port
      (x.st.handleOf i) (.revoked .forced)) w).drain i .forced

/-- An event is raised for each holder of a record, in holder order (R77, R79, R119). -/
def Work.raiseHolders (w : Work) (i : RecordIndex) (e : NoticeEvent) : Work :=
  (w.st.lease i).holders.foldl (fun x h => x.raise h.port (x.st.handleOf i) e) w

/-! ## Wait-queue scan (R66) -/

/-- One entry of a scan: whether it stays, and the event after its steps. `older` holds the older entries still in
the queue. DEDUCED, the model's choice between two rules: an entry that fails its port's quota leaves with DENIED_QUOTA by
step 1 of R66, where R68 speaks of an older entry that stays because its port's quota is full (log 13). -/
def Work.scanEntry (w : Work) (older : List WaitEntry) (e : WaitEntry) : Bool × Work :=
  if w.st.withinReach e.port e.extent = false then
    (false, (w.onState (fun s => s.freeTag e.port e.tag)).respond e.port e.tag .deniedReach)
  else if w.st.quotaAllows e.port e.count = false then
    (false, (w.onState (fun s => s.freeTag e.port e.tag)).respond e.port e.tag .deniedQuota)
  else if blocked older e.extent then (true, w)
  else
    match w.st.lowestFree with
    | none => (true, w)
    | some i =>
      if w.st.conflicts e.kind e.extent then (true, w)
      else (false, (w.onState (fun s => s.freeTag e.port e.tag)).grant i e.port e.tag e.kind e.extent e.term)

/-- The entries of a scan, oldest first: those that stay, and the event after the scan. -/
def Work.scanEntries (w : Work) (older : List WaitEntry) : List WaitEntry → List WaitEntry × Work
  | [] => (older, w)
  | e :: rest =>
    match w.scanEntry older e with
    | (true, w') => w'.scanEntries (older ++ [e]) rest
    | (false, w') => w'.scanEntries older rest

/-- A wait-queue scan (R65, R66). One scan is made and no second, whatever R68 says of it (log 13). -/
def Work.scan (w : Work) : Work :=
  let r := w.scanEntries [] w.st.waitQueue
  { r.2 with st := { r.2.st with waitQueue := r.1 }, scanDue := false }

/-! ## Entry to ONLINE and fences (Chapter 9) -/

/-- The WELCOME of a port as it enters ONLINE (R144). -/
def State.welcome (s : State) (p : Port) : Welcome :=
  { epoch := (s.port p).epoch, port := p, poolGranules := s.geometry.poolGranules, policy := s.policy p }

/-- The port record after the entry to ONLINE: epoch, host identifier, state and notification sequence (R144). -/
def PortRecord.goOnline (r : PortRecord) (host : HostId) : PortRecord :=
  { r with
    epoch := r.epoch + 1
    hostId := host
    state := .online
    helloPending := none
    unit := { r.unit with sequence := 0 } }

/-- The port enters ONLINE and its WELCOME is produced (R144). The WELCOME is produced after the state has become ONLINE,
so one that finds 128 packets queued overflows the port as any packet of an ONLINE port does. DESIGN CHOICE: R141 counts
the WELCOME among the packets produced while LINKED and leaves this open (log 24). -/
def Work.enterOnline (w : Work) (p : Port) (host : HostId) : Work :=
  let w' := w.onState (fun s => s.setPort p ((s.port p).goOnline host))
  w'.send p (.welcome (w'.st.welcome p))

/-- The port record at fence start: the port controller's, command unit's, notification unit's and access path's
parts (R135, R146). -/
def PortRecord.fence (r : PortRecord) (c : FenceCause) (hello : Option HostId) : PortRecord :=
  { r with
    state := .fencing
    fenceCause := some c
    helloPending := hello
    outbound := []
    commandQueue := []
    accessQueue := []
    commandTags := 0
    readTags := 0
    unit := { r.unit with entries := [], inFlight := none, ackTimer := none } }

/-- The leases that fence start takes the port from: not standing, ACTIVE or NOTICE, and held by it (R76). -/
def State.fencedLeases (s : State) (p : Port) : List RecordIndex :=
  (List.finRange 256).filter (fun i => (s.lease i).inForce && (s.lease i).standing.isNone && (s.lease i).holds p)

/-- A record at fence start of a port: the port's entry is gone, and a lease left without holder is DRAINING, cause
FENCED, or FORCED when it was in NOTICE (R76). -/
def LeaseRecord.fenceOff (r : LeaseRecord) (p : Port) : LeaseRecord :=
  let r' := r.withoutHolder p
  if r'.holders = [] then r'.toDraining .fenced else r'

/-- The lease table's part of a fence start (R76). Every lease concerned loses the port; then those left DRAINING
with drain count 0 make their retirement steps. The manual gives no order to these steps, which matters where
several extents join the scrub queue or the held list: their order is open (log 6). -/
def Work.fenceLeases (w : Work) (p : Port) : Work :=
  let ids := w.st.fencedLeases p
  let w1 := ids.foldl (fun x i => x.onState (fun s => s.setLease i ((s.lease i).fenceOff p))) w
  let done := ids.filter (fun i => decide ((w1.st.lease i).state = .draining ∧ (w1.st.lease i).drainCount = 0))
  let plain := done.filter (fun i => !w1.st.needsScrub (w1.st.lease i))
  let scrubbed := done.filter (fun i => w1.st.needsScrub (w1.st.lease i))
  let w2 := plain.foldl Work.retire w1
  let w3 := (anyOrder scrubbed.length w2.st.choices scrubbed).foldl Work.retire w2
  w3.onState (fun s => { s with choices := s.choices + choicesOf scrubbed.length })

/-- The access path's part of a fence start: the port's occupied host slots are orphaned (R122). -/
def State.orphanSlots (s : State) (p : Port) : State :=
  { s with
    hostSlots := mapVector (fun x => x.map (fun y => if y.port = p then { y with orphaned := true } else y)) s.hostSlots }

/-- Fence start of a port, but for the scan and the fence end that follow (R146). -/
def Work.fenceStart (w : Work) (p : Port) (c : FenceCause) (hello : Option HostId) : Work :=
  let w1 := w.onState (fun s => (s.setPort p ((s.port p).fence c hello)).setAlert (.portFenced p))
  let w2 := w1.fenceLeases p
  let w3 := w2.onState (fun s => { s with waitQueue := s.waitQueue.filter (fun e => decide (e.port ≠ p)) })
  let w4 := (w3.onState (fun s => s.orphanSlots p)).needScan
  if w4.st.slotsOf p = [] then w4.endFence p else w4

/-- Fence end of a port: DOWN, ONLINE or LINKED by its link flag and hello-pending (R148). -/
def Work.fenceEnd (w : Work) (p : Port) : Work :=
  let r := w.st.port p
  if r.state ≠ .fencing then w
  else if r.linkFlag = false then w.onState (fun s => s.setPort p { r with state := .down })
  else
    match r.helloPending with
    | some host => w.enterOnline p host
    | none => w.onState (fun s => s.setPort p { r with state := .linked })

/-! ## The end of an event -/

/-- The fences of the ports that overflowed and are still ONLINE (R128, R141). The manual gives no order to two such
fences of one event (log 6). -/
def Work.fenceOverflowed (w : Work) : Work :=
  let due := w.overflowed.filter (fun p => decide ((w.st.port p).state = .online))
  let w' := (anyOrder due.length w.st.choices due).foldl (fun x p => x.fenceStart p .overflow none)
    { w with overflowed := [], st := { w.st with choices := w.st.choices + choicesOf due.length } }
  w'

/-- The fences that end (R148). -/
def Work.endFences (w : Work) : Work := w.ending.foldl Work.fenceEnd { w with ending := [] }

/-- What is due at the end of an event: the fences of overflowed ports, then one scan (R65), again while the scan
itself overflows a port, and then the fence ends (R146, R148). A port overflows at most once in an event, since its
outbound list is empty from its fence on, so the bound is never met. -/
def Work.settleWithin : Nat → Work → State
  | 0, w => w.st
  | fuel + 1, w =>
    if w.overflowed = [] ∧ w.ending = [] ∧ w.scanDue = false then w.st
    else
      let w1 := w.fenceOverflowed
      let w2 := if w1.scanDue then w1.scan else w1
      if w2.overflowed = [] then w2.endFences.settleWithin fuel else w2.settleWithin fuel

/-- The state after an event. -/
def Work.settle (w : Work) : State := w.settleWithin 8

/-- The outcome of an event that occurs. -/
def Work.done (w : Work) : Host.Outcome State Fault Refusal := .next w.settle

end Sys2Proof.Machine
end

