-- ==== Sys2Proof/Machine/Controller.lean ====
section
/-! DEFINITION. The memory controller of the pool, as far as the LC-416 depends on it (R95, R102, R111, R117, R118,
R124): operations are issued to it, it carries each out as a unit at some moment between issue and completion, and
it settles what a device reset abandons. Which of several accesses to the same bytes it carries out first is open
(R118, log 4). -/

namespace Sys2Proof.Machine

/-- An operation is issued for a host slot (R111). -/
def State.issue (s : State) (k : HostSlotNumber) (x : PoolRequest) : State :=
  { s with operations := s.operations ++ [⟨k, x, none⟩] }

/-- The operation in flight of a host slot. -/
def State.operationOf (s : State) (k : HostSlotNumber) : Option PoolOperation :=
  s.operations.find? (fun o => decide (o.slot = k))

/-- The operations of `pool` reached from `chosen` over clashes: those whose order among themselves and toward the
chosen ones matters. -/
def clashClosure : Nat → List PoolOperation → List PoolOperation → List PoolOperation
  | 0, chosen, _ => chosen
  | fuel + 1, chosen, others =>
    let more := others.filter (fun y => chosen.any (fun x => x.request.clashes y.request))
    if more = [] then chosen
    else clashClosure fuel (chosen ++ more) (others.filter (fun y => !chosen.any (fun x => x.request.clashes y.request)))

/-- The operation of a slot is carried out (R118). -/
def State.carryOut (s : State) (k : HostSlotNumber) : State :=
  match s.operationOf k with
  | none => s
  | some o =>
    let r := o.request.carryOut s.pool
    { s with
      pool := r.1
      operations := s.operations.map (fun x => if x.slot = k then { x with carriedOut := some r.2 } else x) }

/-- Operations of the list are carried out in an open order until that of the slot is. -/
def State.carryOutUntil (k : HostSlotNumber) : Nat → List HostSlotNumber → State → State
  | 0, _, s => s
  | _, [], s => s
  | fuel + 1, x :: rest, s =>
    let y := choose s.choices x rest
    let s' := { s.carryOut y with choices := s.choices + (if rest = [] then 0 else 1) }
    if y = k then s' else State.carryOutUntil k fuel ((x :: rest).erase y) s'

/-- The memory controller has carried out the operation of the slot by the time it returns the completion, and may
have carried out before it any operations in flight whose order matters to it (R118). -/
def State.carriedOut (s : State) (k : HostSlotNumber) : State :=
  match s.operationOf k with
  | none => s
  | some o =>
    if o.carriedOut.isSome then s
    else
      let waiting := s.operations.filter (fun x => x.carriedOut.isNone)
      let near := clashClosure waiting.length [o] (waiting.filter (fun x => decide (x.slot ≠ k)))
      s.carryOutUntil k near.length (near.map (fun x => x.slot))

/-- The operation of a slot is no longer in flight. -/
def State.forget (s : State) (k : HostSlotNumber) : State :=
  { s with operations := s.operations.filter (fun o => decide (o.slot ≠ k)) }

/-- The bytes that a completed READ returns: those found when it was carried out (R118). -/
def State.foundBytes (s : State) (k : HostSlotNumber) (x : HostSlot) : List Byte :=
  match (s.operationOf k).bind (fun o => o.carriedOut) with
  | some d => d
  | none => s.pool.readBytes x.address.toNat x.length

/-- An abandoned operation: a WRITE has stored its data by the time the memory controller has settled, or it has
not, as an open choice says; a READ leaves no trace (R124). -/
def abandonOne (s : State) (o : PoolOperation) : State :=
  match o.request with
  | .read _ _ => s
  | .write a d =>
    { s with
      pool := if Config.choice s.choices % 2 = 1 then s.pool.writeBytes a.toNat d else s.pool
      choices := s.choices + 1 }

/-- The zero-fill in flight is abandoned: the contents of its granule are unknown (R102). -/
def State.abandonZeroFill (s : State) : State :=
  match s.scrubSlot with
  | none => s
  | some g =>
    { s with
      scrubSlot := none
      pool := s.pool.refill g (.unknown s.choices)
      choices := s.choices + 1 }

/-- Every operation in flight is abandoned (R102, R124): those not yet carried out settle in an open order. -/
def State.abandonOperations (s : State) : State :=
  let left := s.operations.filter (fun o => o.carriedOut.isNone && o.request.stores)
  let s1 := { s with choices := s.choices + choicesOf left.length, operations := [] }
  ((anyOrder left.length s.choices left).foldl abandonOne s1).abandonZeroFill

end Sys2Proof.Machine
end

