-- ==== Sys2Proof/Machine/Access.lean ====
section
/-! DEFINITION. The access path (Chapter 7): the slot arbiter's takings with their checks, admission and refusal, and
the pool completions of host accesses. -/

namespace Sys2Proof.Machine

/-! ## Taking an access -/

/-- The access that the slot arbiter takes next, with its port (R106). -/
def State.nextAccess (s : State) : Option (Port × Access) :=
  (roundRobin s.accessServed (fun p => !(s.port p).accessQueue.isEmpty)).bind
    (fun p => (s.port p).accessQueue.head?.map (fun a => (p, a)))

/-- The access of the port leaves the head of its queue, and the port becomes the port served last (R106). -/
def State.accessTaken (s : State) (p : Port) : State :=
  { s.setPort p { s.port p with accessQueue := (s.port p).accessQueue.tail } with accessServed := p }

/-- The length or the alignment is out of range, or the access crosses a granule (R108, check 2). -/
def badLength (a : PoolAddress) (length : Nat) : Bool :=
  decide (length < 8 ∨ 256 < length ∨ length % 8 ≠ 0 ∨ a.toNat % 8 ≠ 0 ∨
    granuleOf (a.toNat + length - 1) ≠ granuleOf a.toNat)

/-- The checks of R108 on an access of the port, in order: the admitting lease, or the reason of refusal. -/
def State.checkAccess (s : State) (p : Port) (tag : Option ReadTag) (k : AccessKind) (a : PoolAddress) (length : Nat) :
    Admission :=
  if (s.port p).state ≠ .online then .refused .notOnline
  else if badLength a length then .refused .badLength
  else if tag.any (fun t => (s.port p).readTags.getLsbD t.val) then .refused .tagInUse
  else if s.geometry.poolGranules ≤ granuleOf a.toNat then .refused .outOfPool
  else s.admission p k (granuleOf a.toNat)

/-- The refusal record after a refusal (R121). -/
def recordRefusal (old : Option RefusalRecord) (k : AccessKind) (a : PoolAddress) (reason : RefusalReason) :
    Option RefusalRecord :=
  match old with
  | none => some ⟨k, a, reason, false⟩
  | some r => some { r with more := true }

/-- The refusal is recorded in the port's refusal record (R110, R121). -/
def State.noteRefusal (s : State) (p : Port) (k : AccessKind) (a : PoolAddress) (reason : RefusalReason) : State :=
  s.setPort p { s.port p with refusal := recordRefusal (s.port p).refusal k a reason }

/-- The admitting lease counts one more access (R12, R111). -/
def State.countAdmission (s : State) (i : RecordIndex) : State :=
  s.setLease i { s.lease i with drainCount := (s.lease i).drainCount + 1 }

/-- The host slot of an admitted access (R111, R114). -/
def State.admittedSlot (s : State) (p : Port) (k : SlotKind) (a : PoolAddress) (length : Nat) (i : RecordIndex) :
    HostSlot :=
  { port := p, epoch := (s.port p).epoch, kind := k, address := a, length := length, lease := i, orphaned := false }

/-- The taking of a READ in a slot that is free (R108, R110, R111). -/
def takeRead (n : HostSlotNumber) (p : Port) (tag : ReadTag) (a : PoolAddress) (length : Nat) (w : Work) : Work :=
  match w.st.checkAccess p (some tag) .read a length with
  | .admitted i =>
    w.onState (fun s =>
      let s1 := (s.setSlot n (some (s.admittedSlot p (.read tag) a length i))).countAdmission i
      let s2 := s1.setPort p { s1.port p with readTags := addMember (s1.port p).readTags tag.val }
      s2.issue n (.read a length))
  | .refused reason =>
    (w.onState (fun s => s.noteRefusal p .read a reason)).send p (.readDone tag (.refused reason) [])

/-- The taking of a WRITE in a slot that is free (R108, R110, R111). -/
def takeWrite (n : HostSlotNumber) (p : Port) (a : PoolAddress) (length : BitVec 16) (data : List Byte) (w : Work) :
    Work :=
  match w.st.checkAccess p none .write a length.toNat with
  | .admitted i =>
    w.onState (fun s =>
      ((s.setSlot n (some (s.admittedSlot p .write a length.toNat i))).countAdmission i).issue n (.write a data))
  | .refused reason =>
    (w.onState (fun s => s.noteRefusal p .write a reason)).send p (.writeRefused a length reason)

/-- READ_TAKING (R106, R108). -/
def execReadTaking (s : State) : Host.Outcome State Fault Refusal :=
  match s.freeSlot with
  | none => .refused .noFreeHostSlot
  | some n =>
    match s.nextAccess with
    | some (p, .read tag a length) => (takeRead n p tag a length.toNat (.start (s.accessTaken p))).done
    | _ => .refused .accessOfAnotherRow

/-- WRITE_TAKING (R106, R108). -/
def execWriteTaking (s : State) : Host.Outcome State Fault Refusal :=
  match s.freeSlot with
  | none => .refused .noFreeHostSlot
  | some n =>
    match s.nextAccess with
    | some (p, .write a length data) => (takeWrite n p a length data (.start (s.accessTaken p))).done
    | _ => .refused .accessOfAnotherRow

/-! ## Completion (R117) -/

/-- A pool error of a READ (R119): the damage field where it is absent, DAMAGED for each holder, and the alert. -/
def Work.poolError (w : Work) (i : RecordIndex) (a : PoolAddress) : Work :=
  let w1 := w.onState (fun s => s.setLease i { s.lease i with damage := (s.lease i).damage.orElse (fun _ => some a) })
  (w1.raiseHolders i (.damaged a)).onState (fun s => s.setAlert .damage)

/-- The drain count of the lease falls by 1; a DRAINING lease that reaches 0 makes its retirement step (R117, step
4). -/
def Work.drainOne (w : Work) (i : RecordIndex) : Work :=
  let w' := w.onState (fun s => s.setLease i { s.lease i with drainCount := (s.lease i).drainCount - 1 })
  if (w'.st.lease i).state = .draining ∧ (w'.st.lease i).drainCount = 0 then w'.retire i else w'

/-- No occupied host slot holds the port and the epoch (R117, step 5). -/
def State.noSlotOf (s : State) (p : Port) (epoch : BitVec 8) : Bool :=
  (s.slotsOf p).all (fun x => decide (x.epoch ≠ epoch))

/-- Steps 3 to 5 of a completion: the slot is freed, the lease drains, and the fence of the port ends when the last
orphaned slot of its old epoch is gone (R117). -/
def Work.completeSlot (w : Work) (n : HostSlotNumber) (x : HostSlot) : Work :=
  let w' := (w.onState (fun s => (s.setSlot n none).forget n)).drainOne x.lease
  if x.orphaned && w'.st.noSlotOf x.port x.epoch then w'.endFence x.port else w'

/-- Step 2 of a READ completion: READ_DONE, unless the slot is orphaned (R117). -/
def Work.answerRead (w : Work) (x : HostSlot) (tag : ReadTag) (status : ReadStatus) (data : List Byte) : Work :=
  if x.orphaned then w
  else
    (w.onState (fun s =>
      s.setPort x.port { s.port x.port with readTags := dropMember (s.port x.port).readTags tag.val })).send x.port
      (.readDone tag status data)

/-- The completion of a READ with its data. -/
def completeRead (n : HostSlotNumber) (x : HostSlot) (tag : ReadTag) (w : Work) : Work :=
  let w1 := w.onState (fun s => s.carriedOut n)
  (w1.answerRead x tag .ok (w1.st.foundBytes n x)).completeSlot n x

/-- The completion of a READ with a pool error. -/
def failRead (n : HostSlotNumber) (x : HostSlot) (tag : ReadTag) (w : Work) : Work :=
  ((w.poolError x.lease x.address).answerRead x tag .poolError []).completeSlot n x

/-- READ_COMPLETION (R117). -/
def execReadCompletion (n : HostSlotNumber) (poolError : Bool) (s : State) : Host.Outcome State Fault Refusal :=
  match s.slot n with
  | none => .refused .noSuchOperation
  | some x =>
    match x.kind with
    | .read tag => if poolError then (failRead n x tag (.start s)).done else (completeRead n x tag (.start s)).done
    | .write => .refused .noSuchOperation

/-- WRITE_COMPLETION (R117). -/
def execWriteCompletion (n : HostSlotNumber) (s : State) : Host.Outcome State Fault Refusal :=
  match s.slot n with
  | none => .refused .noSuchOperation
  | some x =>
    match x.kind with
    | .read _ => .refused .noSuchOperation
    | .write => (((Work.start s).onState (fun t => t.carriedOut n)).completeSlot n x).done

end Sys2Proof.Machine
end

