-- ==== Sys2Proof/Machine/Commands.lean ====
section
/-! DEFINITION. The lease command unit (Chapter 3): the taking of a command, the test of its tag, and the eight steps
it can be. -/

namespace Sys2Proof.Machine

/-! ## Taking a command -/

/-- The command that the command unit takes next, with its port (R41). -/
def State.nextCommand (s : State) : Option (Port × CommandPacket) :=
  (roundRobin s.commandServed (fun p => !(s.port p).commandQueue.isEmpty)).bind
    (fun p => (s.port p).commandQueue.head?.map (fun c => (p, c)))

/-- The command of the port leaves the head of its queue, and the port becomes the port served last (R40, R41). -/
def State.commandTaken (s : State) (p : Port) : State :=
  { s.setPort p { s.port p with commandQueue := (s.port p).commandQueue.tail } with commandServed := p }

/-- The tag is in the port's set of outstanding tags (R43). -/
def State.tagOutstanding (s : State) (p : Port) (tag : CommandTag) : Bool := (s.port p).commandTags.getLsbD tag.val

/-- A command whose tag is outstanding is answered TAG_IN_USE and is not otherwise acted on (R43). -/
def withFreeTag (p : Port) (tag : CommandTag) (act : Work → Work) (w : Work) : Work :=
  if w.st.tagOutstanding p tag then w.respond p tag .tagInUse else act w

/-- The taking of a command of one row: `act` gives the row's action on a command of its own, and none on another
row's. -/
def takeCommand (act : Port → CommandTag → LeaseCommand → Option (Work → Work)) (s : State) :
    Host.Outcome State Fault Refusal :=
  match s.nextCommand with
  | none => .refused .commandOfAnotherRow
  | some (p, c) =>
    match act p c.tag c.command with
    | none => .refused .commandOfAnotherRow
    | some f => (withFreeTag p c.tag f (.start (s.commandTaken p))).done

/-! ## ACQUIRE -/

/-- The kind that an ACQUIRE's kind field names (section 12.1, R181). -/
def acquireKind (k : Byte) : Option AcquireKind :=
  match k.toNat with
  | 1 => some .exclusive
  | 2 => some .shared
  | _ => none

/-- The wait queue has no place for another entry of the port (R48). -/
def State.waitFull (s : State) (p : Port) : Bool :=
  decide (32 ≤ s.waitQueue.length ∨ 4 ≤ (s.waitQueue.filter (fun e => decide (e.port = p))).length)

/-- An entry joins the end of the wait queue and its tag becomes outstanding (R64). -/
def State.enterWaitQueue (s : State) (e : WaitEntry) : State :=
  { s.holdTag e.port e.tag with waitQueue := s.waitQueue ++ [e] }

/-- An ACQUIRE that has passed its checks and is not grantable (R48). -/
def notGrantable (p : Port) (tag : CommandTag) (k : AcquireKind) (e : Extent) (term maxWait : Nat) (w : Work) : Work :=
  if maxWait = 0 then
    if w.st.conflicts k e || blocked w.st.waitQueue e then w.respond p tag .deniedConflict
    else w.respond p tag .noRecord
  else if w.st.waitFull p then w.respond p tag .waitFull
  else w.onState (fun s => s.enterWaitQueue ⟨p, tag, k, e.base, e.count, term, s.after maxWait⟩)

/-- The action of an ACQUIRE whose tag is free (R47, R48). -/
def acquire (p : Port) (tag : CommandTag) (kind : Byte) (e : Extent) (term maxWait : Nat) (w : Work) : Work :=
  match acquireKind kind with
  | none => w.respond p tag .malformed
  | some k =>
    if e.count = 0 ∨ 10000 < maxWait ∨ e.inPool w.st.geometry.poolGranules = false then w.respond p tag .malformed
    else if w.st.termAllowed p term = false then w.respond p tag .deniedTerm
    else if w.st.withinReach p e = false then w.respond p tag .deniedReach
    else if w.st.quotaAllows p e.count = false then w.respond p tag .deniedQuota
    else if w.st.conflicts k e || blocked w.st.waitQueue e then notGrantable p tag k e term maxWait w
    else
      match w.st.lowestFree with
      | none => notGrantable p tag k e term maxWait w
      | some i => w.grant i p tag k e term

/-- ACQUIRE (R47). -/
def execAcquire (s : State) : Host.Outcome State Fault Refusal :=
  takeCommand (fun p tag c =>
    match c with
    | .acquire k b n t m => some (acquire p tag k ⟨b.toNat, n.toNat⟩ t.toNat m.toNat)
    | .join _ _ | .renew _ _ | .release _ | .convert _ | .cancel _ | .lookup _ | .unknown _ _ => none) s

/-! ## Commands that name a lease (R50) -/

/-- The record with a READ holder entry appended for the port (R19). -/
def State.joinedRecord (s : State) (i : RecordIndex) (p : Port) (term : Nat) : LeaseRecord :=
  { s.lease i with holders := (s.lease i).holders ++ [⟨p, .read, term, s.holderDeadline term⟩] }

/-- The action of a JOIN whose tag is free (R50, R51, R19). -/
def join (p : Port) (tag : CommandTag) (h : Handle) (term : Nat) (w : Work) : Work :=
  let r := w.st.lease h.index
  if w.st.resolves h = false then w.respond p tag .stale
  else if r.state = .draining then w.respond p tag .revoking
  else if r.standing.isSome then w.respond p tag .standing
  else if r.kind ≠ some .shared then w.respond p tag .notShared
  else if r.state = .notice then w.respond p tag .revoking
  else if r.holds p then w.respond p tag .alreadyHolder
  else if w.st.termAllowed p term = false then w.respond p tag .deniedTerm
  else if w.st.withinReach p r.extent = false then w.respond p tag .deniedReach
  else if w.st.quotaAllows p r.count = false then w.respond p tag .deniedQuota
  else
    (w.onState (fun s => s.setLease h.index (s.joinedRecord h.index p term))).respond p tag
      (.joined (w.st.holderDeadline term))

/-- JOIN (R51). -/
def execJoin (s : State) : Host.Outcome State Fault Refusal :=
  takeCommand (fun p tag c =>
    match c with
    | .join h t => some (join p tag h t.toNat)
    | .acquire _ _ _ _ _ | .renew _ _ | .release _ | .convert _ | .cancel _ | .lookup _ | .unknown _ _ => none) s

/-- The record with the port's holder entry given a new term and deadline, in its place (R22). -/
def State.renewedRecord (s : State) (i : RecordIndex) (p : Port) (term : Nat) : LeaseRecord :=
  { s.lease i with
    holders := (s.lease i).holders.map
      (fun h => if h.port = p then { h with term := term, deadline := s.holderDeadline term } else h) }

/-- The action of a RENEW whose tag is free (R50, R53, R22). -/
def renew (p : Port) (tag : CommandTag) (h : Handle) (term : Nat) (w : Work) : Work :=
  let r := w.st.lease h.index
  if w.st.resolves h = false then w.respond p tag .stale
  else if r.state = .draining then w.respond p tag .revoking
  else if r.standing.isSome then w.respond p tag .standing
  else if r.holds p = false then w.respond p tag .notHolder
  else if r.state = .notice then w.respond p tag .revoking
  else if w.st.termAllowed p term = false then w.respond p tag .deniedTerm
  else
    (w.onState (fun s => s.setLease h.index (s.renewedRecord h.index p term))).respond p tag
      (.renewed (w.st.holderDeadline term))

/-- RENEW (R53). -/
def execRenew (s : State) : Host.Outcome State Fault Refusal :=
  takeCommand (fun p tag c =>
    match c with
    | .renew h t => some (renew p tag h t.toNat)
    | .acquire _ _ _ _ _ | .join _ _ | .release _ | .convert _ | .cancel _ | .lookup _ | .unknown _ _ => none) s

/-- The action of a RELEASE whose tag is free (R50, R55). Its OK comes before the RESPONSEs of the scan that a
retirement starts (R65). -/
def release (p : Port) (tag : CommandTag) (h : Handle) (w : Work) : Work :=
  let r := w.st.lease h.index
  if w.st.resolves h = false then w.respond p tag .stale
  else if r.state = .draining then w.respond p tag .revoked
  else if r.standing.isSome then w.respond p tag .standing
  else if r.holds p = false then w.respond p tag .notHolder
  else (w.removeHolder h.index p .released).respond p tag .ok

/-- RELEASE (R55). -/
def execRelease (s : State) : Host.Outcome State Fault Refusal :=
  takeCommand (fun p tag c =>
    match c with
    | .release h => some (release p tag h)
    | .acquire _ _ _ _ _ | .join _ _ | .renew _ _ | .convert _ | .cancel _ | .lookup _ | .unknown _ _ => none) s

/-- The record of a converted lease: SHARED, its holder with READ, all else as it was (R20). -/
def LeaseRecord.converted (r : LeaseRecord) : LeaseRecord :=
  { r with kind := some .shared, holders := r.holders.map (fun h => { h with right := .read }) }

/-- The action of a CONVERT whose tag is free (R50, R57, R20). -/
def convert (p : Port) (tag : CommandTag) (h : Handle) (w : Work) : Work :=
  let r := w.st.lease h.index
  if w.st.resolves h = false then w.respond p tag .stale
  else if r.state = .draining then w.respond p tag .revoking
  else if r.holds p = false then w.respond p tag .notHolder
  else if r.state = .notice then w.respond p tag .revoking
  else if r.kind ≠ some .exclusive then w.respond p tag .notExclusive
  else (w.onState (fun s => s.setLease h.index (s.lease h.index).converted)).respond p tag .ok

/-- CONVERT (R57). -/
def execConvert (s : State) : Host.Outcome State Fault Refusal :=
  takeCommand (fun p tag c =>
    match c with
    | .convert h => some (convert p tag h)
    | .acquire _ _ _ _ _ | .join _ _ | .renew _ _ | .release _ | .cancel _ | .lookup _ | .unknown _ _ => none) s

/-! ## CANCEL and LOOKUP -/

/-- The entry is the port's waiting ACQUIRE with the target tag (R58). -/
def WaitEntry.isTarget (e : WaitEntry) (p : Port) (target : Byte) : Bool :=
  decide (e.port = p ∧ e.tag.val = target.toNat)

/-- An entry leaves the wait queue and its tag leaves the set of outstanding tags (R43, R62). -/
def State.leaveWaitQueue (s : State) (e : WaitEntry) : State :=
  { s.freeTag e.port e.tag with waitQueue := s.waitQueue.erase e }

/-- The action of a CANCEL whose own tag is free (R58). -/
def cancel (p : Port) (tag : CommandTag) (target : Byte) (w : Work) : Work :=
  match w.st.waitQueue.find? (fun e => e.isTarget p target) with
  | none => w.respond p tag .notWaiting
  | some e =>
    (((w.onState (fun s => s.leaveWaitQueue e)).respond p e.tag .cancelled).respond p tag .ok).needScan

/-- CANCEL (R58). -/
def execCancel (s : State) : Host.Outcome State Fault Refusal :=
  takeCommand (fun p tag c =>
    match c with
    | .cancel t => some (cancel p tag t)
    | .acquire _ _ _ _ _ | .join _ _ | .renew _ _ | .release _ | .convert _ | .lookup _ | .unknown _ _ => none) s

/-- What a FOUND answer reports of a record (R42, R60). -/
def State.foundLease (s : State) (i : RecordIndex) : FoundLease :=
  let r := s.lease i
  { handle := s.handleOf i, kind := r.kind, state := r.state, written := r.written, standing := r.standing,
    base := r.base, count := r.count, holders := r.holders.map (fun h => h.port) }

/-- The answer to a LOOKUP of a granule (R60). -/
def State.lookupAnswer (s : State) (g : Nat) : Answer :=
  if s.geometry.poolGranules ≤ g then .outOfPool
  else
    match (List.finRange 256).find? (fun i => (s.lease i).coversLive g) with
    | some i => .found (s.foundLease i)
    | none => if s.inScrubQueue g then .scrubbing else .none

/-- LOOKUP (R60). -/
def execLookup (s : State) : Host.Outcome State Fault Refusal :=
  takeCommand (fun p tag c =>
    match c with
    | .lookup g => some (fun w => w.respond p tag (w.st.lookupAnswer g.toNat))
    | .acquire _ _ _ _ _ | .join _ _ | .renew _ _ | .release _ | .convert _ | .cancel _ | .unknown _ _ => none) s

/-- MALFORMED_COMMAND (R45). -/
def execMalformedCommand (s : State) : Host.Outcome State Fault Refusal :=
  takeCommand (fun p tag c =>
    match c with
    | .unknown _ _ => some (fun w => w.respond p tag .malformed)
    | .acquire _ _ _ _ _ | .join _ _ | .renew _ _ | .release _ | .convert _ | .cancel _ | .lookup _ => none) s

end Sys2Proof.Machine
end

