-- ==== Sys2Proof/Machine/Deadlines.lean ====
section
/-! DEFINITION. The lease clock and the events that it brings about: the expiries of waits, holders, notices and ack
timers (R21, R23, R69, R82, R132). An expiry is an event of its own, taken at or after its deadline. -/

namespace Sys2Proof.Machine

/-- LEASE_CLOCK_TICK (R21): from readiness on the lease clock rises by 1 and wraps; before it stands at 0. -/
def execLeaseClockTick (s : State) : Host.Outcome State Fault Refusal :=
  if s.phase = .ready then .next { s with clock := s.clock + 1 } else .next s

/-- WAIT_DEADLINE_EXPIRY (R69). -/
def execWaitDeadlineExpiry (p : Port) (tag : CommandTag) (s : State) : Host.Outcome State Fault Refusal :=
  match s.waitQueue.find? (fun e => decide (e.port = p ∧ e.tag = tag)) with
  | none => .refused .noSuchDeadline
  | some e =>
    if s.reached e.deadline then
      ((((Work.start s).onState (fun t => t.leaveWaitQueue e)).respond p tag .deniedTimeout).needScan).done
    else .refused .deadlineNotReached

/-- The expiry of a holder: its entry is removed and EXPIRED is raised for its port (R23). -/
def expireHolder (i : RecordIndex) (p : Port) (w : Work) : Work :=
  (w.removeHolder i p .expired).raise p (w.st.handleOf i) .expired

/-- HOLDER_EXPIRY (R23). -/
def execHolderExpiry (i : RecordIndex) (p : Port) (s : State) : Host.Outcome State Fault Refusal :=
  if (s.lease i).inForce = false then .refused .noSuchDeadline
  else
    match ((s.lease i).holderOf p).bind (fun h => h.deadline) with
    | none => .refused .noSuchDeadline
    | some d => if s.reached d then (expireHolder i p (.start s)).done else .refused .deadlineNotReached

/-- NOTICE_DEADLINE (R82). -/
def execNoticeDeadline (i : RecordIndex) (s : State) : Host.Outcome State Fault Refusal :=
  if (s.lease i).state ≠ .notice then .refused .noSuchDeadline
  else
    match (s.lease i).notice with
    | none => .refused .noSuchDeadline
    | some n => if s.reached n.deadline then ((Work.start s).revokeAll i).done else .refused .deadlineNotReached

/-- The in-flight notification sent again, its count raised and the timer restarted (R132). -/
def redeliver (p : Port) (f : InFlight) (w : Work) : Work :=
  let r := w.st.port p
  let u : NotificationUnit :=
    { r.unit with
      inFlight := some { f with redeliveries := f.redeliveries + 1 }
      ackTimer := some (w.st.after (w.st.policy p).ackTimeout) }
  (w.onState (fun s => s.setPort p { r with unit := u })).send p (.notice f.sequence f.handle f.event)

/-- ACK_TIMER_EXPIRY (R132, R133). -/
def execAckTimerExpiry (p : Port) (s : State) : Host.Outcome State Fault Refusal :=
  match (s.port p).unit.ackTimer, (s.port p).unit.inFlight with
  | some d, some f =>
    if s.reached d then
      if f.redeliveries < 3 then (redeliver p f (.start s)).done
      else ((Work.start s).fenceStart p .unresponsive none).done
    else .refused .deadlineNotReached
  | _, _ => .refused .noSuchDeadline

end Sys2Proof.Machine
end

