-- ==== Sys2Proof/Machine/Ports.lean ====
section
/-! DEFINITION. The port controllers (Chapter 9): what arrives on a link, link events, and the sending of packets. -/

namespace Sys2Proof.Machine

/-- The arrival of a packet on a port (R139, R180): none arrives while the link is down; one that arrives before
readiness or is malformed is discarded; any other goes on as its kind directs, `act` giving none for a kind of
another row. -/
def arrival (p : Port) (k : RawPacket) (act : Packet → Option (Host.Outcome State Fault Refusal)) (s : State) :
    Host.Outcome State Fault Refusal :=
  if (s.port p).lineUp = false then .refused .linkIsDown
  else if s.phase ≠ .ready then .next s
  else
    match decodePacket k with
    | none => .next s
    | some x => (act x).getD (.refused .packetOfAnotherRow)

/-- An access joins the access queue of an ONLINE or LINKED port, and is discarded at a FENCING port (R104). -/
def queueAccess (p : Port) (a : Access) (s : State) : Host.Outcome State Fault Refusal :=
  match (s.port p).state with
  | .online | .linked =>
    if (s.port p).accessQueue.length < 8 then
      .next (s.setPort p { s.port p with accessQueue := (s.port p).accessQueue ++ [a] })
    else .refused .noCredit
  | .fencing => .next s
  | .down => .refused .linkIsDown

/-- READ_ARRIVAL (R104). -/
def execReadArrival (p : Port) (k : RawPacket) (s : State) : Host.Outcome State Fault Refusal :=
  arrival p k (fun x =>
    match x with
    | .access (.read t a l) => some (queueAccess p (.read t a l) s)
    | .access (.write _ _ _) | .command _ | .noticeAck _ | .hello _ => none) s

/-- WRITE_ARRIVAL (R104). -/
def execWriteArrival (p : Port) (k : RawPacket) (s : State) : Host.Outcome State Fault Refusal :=
  arrival p k (fun x =>
    match x with
    | .access (.write a l d) => some (queueAccess p (.write a l d) s)
    | .access (.read _ _ _) | .command _ | .noticeAck _ | .hello _ => none) s

/-- A COMMAND joins the command queue of an ONLINE port, and is discarded at a LINKED or FENCING port (R40). -/
def queueCommand (p : Port) (c : CommandPacket) (s : State) : Host.Outcome State Fault Refusal :=
  match (s.port p).state with
  | .online =>
    if (s.port p).commandQueue.length < 8 then
      .next (s.setPort p { s.port p with commandQueue := (s.port p).commandQueue ++ [c] })
    else .refused .noCredit
  | .linked | .fencing => .next s
  | .down => .refused .linkIsDown

/-- COMMAND_ARRIVAL (R40). -/
def execCommandArrival (p : Port) (k : RawPacket) (s : State) : Host.Outcome State Fault Refusal :=
  arrival p k (fun x =>
    match x with
    | .command c => some (queueCommand p c s)
    | .access _ | .noticeAck _ | .hello _ => none) s

/-- The in-flight notification is cleared and the ack timer stops; the next pending entry is delivered (R131). -/
def acknowledge (p : Port) (w : Work) : Work :=
  (w.onState (fun s =>
    s.setPort p { s.port p with unit := { (s.port p).unit with inFlight := none, ackTimer := none } })).deliver p

/-- A NOTICE_ACK that arrives on a port (R131, R143, R147): an ONLINE port compares its sequence with the in-flight
notification; at a LINKED or FENCING port it is discarded. -/
def takeAck (p : Port) (q : BitVec 16) (s : State) : Host.Outcome State Fault Refusal :=
  match (s.port p).state with
  | .online =>
    if (s.port p).unit.inFlight.any (fun f => decide (f.sequence = q)) then (acknowledge p (.start s)).done else .next s
  | .linked | .fencing => .next s
  | .down => .refused .linkIsDown

/-- NOTICE_ACK (R131). -/
def execNoticeAck (p : Port) (k : RawPacket) (s : State) : Host.Outcome State Fault Refusal :=
  arrival p k (fun x =>
    match x with
    | .noticeAck q => some (takeAck p q s)
    | .access _ | .command _ | .hello _ => none) s

/-- A HELLO that arrives on a port: it brings a LINKED port ONLINE (R144), fences an ONLINE port with cause REHELLO
and itself pending (R145), and replaces what is pending at a FENCING port (R147). -/
def takeHello (p : Port) (host : HostId) (s : State) : Host.Outcome State Fault Refusal :=
  match (s.port p).state with
  | .linked => ((Work.start s).enterOnline p host).done
  | .online => ((Work.start s).fenceStart p .rehello (some host)).done
  | .fencing => .next (s.setPort p { s.port p with helloPending := some host })
  | .down => .refused .linkIsDown

/-- HELLO (R144). -/
def execHello (p : Port) (k : RawPacket) (s : State) : Host.Outcome State Fault Refusal :=
  arrival p k (fun x =>
    match x with
    | .hello host => some (takeHello p host s)
    | .access _ | .command _ | .noticeAck _ => none) s

/-- LINK_UP (R142, R147): a DOWN port enters LINKED, a FENCING port keeps its state; both set the link flag and
PORT_LINK. Before readiness the event is not taken, and only the link itself is up (R152, R153). -/
def execLinkUp (p : Port) (s : State) : Host.Outcome State Fault Refusal :=
  if (s.port p).lineUp then .refused .linkEventsAlternate
  else
    let r := { s.port p with lineUp := true }
    if s.phase ≠ .ready then .next (s.setPort p r)
    else
      match r.state with
      | .down => .next ((s.setPort p { r with state := .linked, linkFlag := true }).setAlert (.portLink p))
      | .fencing => .next ((s.setPort p { r with linkFlag := true }).setAlert (.portLink p))
      | .linked | .online => .refused .linkEventsAlternate

/-- LINK_LOSS (R143, R145, R147): a LINKED port enters DOWN with its access queue and outbound list emptied, an
ONLINE port is fenced with cause LINK_LOST, and a FENCING port loses its link flag and hello-pending; each sets
PORT_LINK. Before readiness the event is not taken (R152, R153). -/
def execLinkLoss (p : Port) (s : State) : Host.Outcome State Fault Refusal :=
  if (s.port p).lineUp = false then .refused .linkEventsAlternate
  else
    let r := { s.port p with lineUp := false }
    if s.phase ≠ .ready then .next (s.setPort p r)
    else
      match r.state with
      | .linked =>
        .next ((s.setPort p { r with state := .down, linkFlag := false, accessQueue := [], outbound := [] }).setAlert
          (.portLink p))
      | .online =>
        ((Work.start ((s.setPort p { r with linkFlag := false }).setAlert (.portLink p))).fenceStart p .linkLost
          none).done
      | .fencing => .next ((s.setPort p { r with linkFlag := false, helloPending := none }).setAlert (.portLink p))
      | .down => .refused .linkEventsAlternate

/-- PACKET_SENT (R141): the head of the outbound list has been sent and leaves the list. -/
def execPacketSent (p : Port) (s : State) : Host.Outcome State Fault Refusal :=
  match (s.port p).outbound with
  | [] => .refused .nothingToSend
  | _ :: rest => .next (s.setPort p { s.port p with outbound := rest })

end Sys2Proof.Machine
end

