-- ==== Sys2Proof/Machine/Scrub.lean ====
section
/-! DEFINITION. The scrub engine's completion (Chapter 6). -/

namespace Sys2Proof.Machine

/-- The place that a removal frees goes to the head of the held-retirement list (R89, R97). -/
def Work.serveHeld (w : Work) : Work :=
  match w.st.held with
  | [] => w
  | i :: rest =>
    (w.onState (fun s =>
      ({ s.freeRecord i with held := rest }).joinScrubQueue (s.lease i).extent)).needScan

/-- Steps 1 to 3 of a zero-fill completion (R96, R97): slot 63 is freed and the granule holds zeros; the head
shrinks; at count 0 it leaves and its place is given away. -/
def Work.shrinkHead (w : Work) (g : Nat) : Work :=
  let w1 := w.onState (fun s => { s with scrubSlot := none, pool := s.pool.refill g .zeroed })
  match w1.st.scrubQueue with
  | [] => w1
  | e :: rest =>
    if e.count ≤ 1 then (w1.onState (fun s => { s with scrubQueue := rest })).serveHeld
    else w1.onState (fun s => { s with scrubQueue := ⟨e.base + 1, e.count - 1⟩ :: rest })

/-- ZERO_FILL_COMPLETION (R96): steps 1 to 3, the scan, and the next zero-fill or IDLE. -/
def execZeroFillCompletion (s : State) : Host.Outcome State Fault Refusal :=
  match s.scrubSlot with
  | none => .refused .noSuchOperation
  | some g => (((Work.start s).shrinkHead g).scan.onState (fun t => t.issueZeroFill)).done

end Sys2Proof.Machine
end

