-- ==== Sys2Proof/Machine/Formats.lean ====
section
/-! DEFINITION. The byte layouts of Chapter 12 from the part: pool-link packets, the result fields of service
responses, response frames and what a read transfer returns. -/

namespace Sys2Proof.Machine

/-! ## Common codes (section 12.1) -/

/-- The code of a lease kind, 0 for none. -/
def kindCode : Option LeaseKind → Nat
  | none => 0
  | some .exclusive => 1
  | some .shared => 2
  | some .common => 3

/-- The code of a record state. -/
def LeaseState.code : LeaseState → Nat
  | .free => 0
  | .active => 1
  | .notice => 2
  | .draining => 3

/-- The code of a right. -/
def Right.code : Right → Nat
  | .read => 1
  | .readWrite => 2

/-- The code of a revoke cause. -/
def RevokeCause.code : RevokeCause → Nat
  | .released => 1
  | .expired => 2
  | .forced => 3
  | .fenced => 4

/-- The code of a revoke cause, 0 for absent. -/
def causeCode (c : Option RevokeCause) : Nat := (c.map RevokeCause.code).getD 0

/-- The code of a port or an entry number, FFh for absent. -/
def indexCode {n : Nat} (x : Option (Fin n)) : Nat := (x.map Fin.val).getD 0xFF

/-- The code of an ACQUIRE's kind. -/
def AcquireKind.code : AcquireKind → Nat
  | .exclusive => 1
  | .shared => 2

/-- A presence byte and the field it governs, which holds 0 when absent (R179). -/
def presence (size : Nat) (v : Option Nat) : List Byte := leBytes 1 (boolCode v.isSome) ++ leBytes size (v.getD 0)

/-! ## Packets (section 12.2) -/

/-- The code of a reason of refusal. -/
def RefusalReason.code : RefusalReason → Nat
  | .notOnline => 2
  | .badLength => 3
  | .tagInUse => 4
  | .outOfPool => 5
  | .readOnly => 6
  | .revoked => 7
  | .notHolder => 8
  | .noLease => 9

/-- The code of a READ_DONE status. -/
def ReadStatus.code : ReadStatus → Nat
  | .ok => 0
  | .poolError => 1
  | .refused r => r.code

/-- The code of an event kind. -/
def NoticeEvent.code : NoticeEvent → Nat
  | .damaged _ => 1
  | .revokeNotice _ => 2
  | .expired => 3
  | .revoked _ => 4

/-- The five detail bytes of a NOTICE. -/
def NoticeEvent.detail : NoticeEvent → List Byte
  | .damaged a => leBytes 5 a.toNat
  | .revokeNotice d => leBytes 5 d.toNat
  | .expired => leBytes 5 0
  | .revoked c => leBytes 5 c.code

/-- The code of a status (section 12.2.1). -/
def Answer.code : Answer → Nat
  | .ok => 0x00
  | .granted _ _ => 0x01
  | .joined _ => 0x02
  | .renewed _ => 0x03
  | .found _ => 0x04
  | .none => 0x05
  | .scrubbing => 0x06
  | .cancelled => 0x07
  | .malformed => 0x08
  | .outOfPool => 0x09
  | .deniedTerm => 0x0A
  | .deniedReach => 0x0B
  | .deniedQuota => 0x0C
  | .deniedConflict => 0x0D
  | .deniedTimeout => 0x0E
  | .noRecord => 0x0F
  | .waitFull => 0x10
  | .stale => 0x11
  | .standing => 0x12
  | .notShared => 0x13
  | .notExclusive => 0x14
  | .notHolder => 0x15
  | .alreadyHolder => 0x16
  | .revoking => 0x17
  | .revoked => 0x18
  | .notWaiting => 0x19
  | .tagInUse => 0x1A

/-- A deadline with its presence byte. -/
def deadlineBytes (d : Option ClockValue) : List Byte := presence 4 (d.map BitVec.toNat)

/-- The result fields of a FOUND answer. -/
def FoundLease.bytes (f : FoundLease) : List Byte :=
  f.handle.bytes ++ leBytes 1 (kindCode f.kind) ++ leBytes 1 f.state.code ++ leBytes 1 (boolCode f.written) ++
    leBytes 1 (indexCode f.standing) ++ leBytes 2 f.base ++ leBytes 3 f.count ++ leBytes 1 f.holders.length ++
    f.holders.flatMap (fun p => leBytes 1 p.val)

/-- The result fields of a RESPONSE (section 12.2.1). -/
def Answer.fields : Answer → List Byte
  | .granted h d => h.bytes ++ deadlineBytes d
  | .joined d => deadlineBytes d
  | .renewed d => deadlineBytes d
  | .found f => f.bytes
  | .ok | .none | .scrubbing | .cancelled | .malformed | .outOfPool | .deniedTerm | .deniedReach | .deniedQuota => []
  | .deniedConflict | .deniedTimeout | .noRecord | .waitFull | .stale | .standing | .notShared | .notExclusive => []
  | .notHolder | .alreadyHolder | .revoking | .revoked | .notWaiting | .tagInUse => []

/-- The body of a WELCOME: 17 bytes. -/
def Welcome.bytes (w : Welcome) : List Byte :=
  leBytes 1 w.epoch.toNat ++ leBytes 1 w.port.val ++ leBytes 3 w.poolGranules ++ leBytes 2 w.policy.reachBase ++
    leBytes 2 w.policy.reachLimit ++ leBytes 3 w.policy.granuleQuota ++ leBytes 1 w.policy.leaseQuota ++
    leBytes 2 w.policy.maxTerm ++ leBytes 1 (boolCode w.policy.indefiniteOk) ++ leBytes 1 w.policy.ackTimeout

/-- A packet from the part as it travels: its kind and its body. -/
def OutPacket.encode : OutPacket → RawPacket
  | .readDone t st d => ⟨0x81, leBytes 1 t.val ++ leBytes 1 st.code ++ d⟩
  | .writeRefused a l r => ⟨0x82, leBytes 5 a.toNat ++ leBytes 2 l.toNat ++ leBytes 1 r.code⟩
  | .response t a => ⟨0x83, leBytes 1 t.val ++ leBytes 1 a.code ++ a.fields⟩
  | .notice q h e => ⟨0x84, leBytes 2 q.toNat ++ h.bytes ++ leBytes 1 e.code ++ e.detail⟩
  | .welcome w => ⟨0x85, w.bytes⟩

/-- The bytes of a packet on the link: the 3-byte header and the body. -/
def wireBytes (k : RawPacket) : List Byte := k.kind :: (leBytes 2 k.body.length ++ k.body)

/-- What the port's link sends when it accepts the head of the outbound list (R141). -/
def State.nextOnLink (s : State) (p : Port) : Option (List Byte) :=
  (s.port p).outbound.head?.map (fun x => wireBytes x.encode)

/-! ## Result fields of service responses (section 12.3.1) -/

/-- The 9 bytes of a holder place. -/
def Holder.bytes (h : Holder) : List Byte :=
  leBytes 1 h.port.val ++ leBytes 1 h.right.code ++ leBytes 2 h.term ++ deadlineBytes h.deadline

/-- Four holder places of 9 bytes, those beyond the holder count 0. -/
def holderPlaces (l : List Holder) : List Byte :=
  ((l.flatMap Holder.bytes) ++ List.replicate 36 0).take 36

/-- The 68 bytes of a record view (R171). DESIGN CHOICE: the four bytes of the notice deadline hold 0 while the notice is
absent; section 12.3.1 gives them no value, since the notice byte is no presence field (log 22). -/
def State.recordView (s : State) (i : RecordIndex) : List Byte :=
  let r := s.lease i
  leBytes 1 i.val ++ leBytes 2 r.generation.toNat ++ leBytes 1 r.state.code ++ leBytes 1 (kindCode r.kind) ++
    leBytes 1 (indexCode r.standing) ++ leBytes 1 (boolCode r.written) ++ leBytes 2 r.base ++ leBytes 3 r.count ++
    leBytes 1 r.holders.length ++ holderPlaces r.holders ++ leBytes 1 (indexCode r.creator) ++
    leBytes 1 (causeCode (r.notice.map Notice.cause)) ++
    leBytes 4 ((r.notice.map (fun n => n.deadline.toNat)).getD 0) ++ leBytes 1 (causeCode r.revokeCause) ++
    leBytes 1 r.drainCount ++ presence 5 (r.damage.map BitVec.toNat) ++ leBytes 1 (boolCode r.retireHeld) ++
    leBytes 4 s.clock.toNat

/-- The entry of the extent index that LEASE_NEXT finds: the first whose base is at or above the granule (R171). -/
def State.leaseAtOrAbove (s : State) (g : Nat) : Option RecordIndex :=
  s.extentIndex.find? (fun i => decide (g ≤ (s.lease i).base))

/-- The other live records of the same base, in ascending order (R171). -/
def State.sameBase (s : State) (i : RecordIndex) : List RecordIndex :=
  (List.finRange 256).filter (fun j => (s.lease j).live && decide (j ≠ i ∧ (s.lease j).base = (s.lease i).base))

/-- The result of LEASE_NEXT (R171). DESIGN CHOICE: with none found the result ends after the found byte; section 12.3.1 puts
its condition on the view alone and leaves open whether a count byte of 0 follows (log 25). -/
def State.nextView (s : State) (g : Nat) : List Byte :=
  match s.leaseAtOrAbove g with
  | none => leBytes 1 0
  | some i =>
    leBytes 1 1 ++ s.recordView i ++ leBytes 1 (s.sameBase i).length ++
      (s.sameBase i).flatMap (fun j => leBytes 1 j.val)

/-- The 14 bytes of a wait-queue entry. -/
def WaitEntry.bytes (e : WaitEntry) : List Byte :=
  leBytes 1 e.port.val ++ leBytes 1 e.tag.val ++ leBytes 1 e.kind.code ++ leBytes 2 e.base ++ leBytes 3 e.count ++
    leBytes 2 e.term ++ leBytes 4 e.deadline.toNat

/-- The result of WAIT_READ (R74). -/
def State.waitView (s : State) : List Byte :=
  leBytes 4 s.clock.toNat ++ leBytes 1 s.waitQueue.length ++ s.waitQueue.flatMap WaitEntry.bytes

/-- The result of SCRUB_READ (R103). DESIGN CHOICE: the two bytes of the granule in flight hold 0 while the engine is IDLE;
section 12.3.1 gives them no value, since the engine state is no presence field (log 22). -/
def State.scrubView (s : State) : List Byte :=
  leBytes 2 s.scrubQueue.length ++ leBytes 1 (boolCode s.scrubQueue.head?.isSome) ++
    leBytes 2 ((s.scrubQueue.head?.map Extent.base).getD 0) ++ leBytes 3 ((s.scrubQueue.head?.map Extent.count).getD 0) ++
    leBytes 1 (boolCode s.scrubSlot.isSome) ++ leBytes 2 (s.scrubSlot.getD 0) ++ leBytes 2 s.held.length

/-- The code of a port state. -/
def PortState.code : PortState → Nat
  | .down => 0
  | .linked => 1
  | .online => 2
  | .fencing => 3

/-- The code of a fence cause. -/
def FenceCause.code : FenceCause → Nat
  | .linkLost => 1
  | .unresponsive => 2
  | .overflow => 3
  | .reset => 4
  | .rehello => 5

/-- The code of the kind of a refused access. -/
def AccessKind.code : AccessKind → Nat
  | .read => 1
  | .write => 2

/-- The 9 bytes of a refusal record with its presence byte. -/
def refusalBytes (r : Option RefusalRecord) : List Byte :=
  match r with
  | none => leBytes 9 0
  | some x =>
    leBytes 1 1 ++ leBytes 1 x.kind.code ++ leBytes 5 x.address.toNat ++ leBytes 1 x.reason.code ++
      leBytes 1 (boolCode x.more)

/-- The 8 bytes of an in-flight notification with its presence byte. -/
def inFlightBytes (f : Option InFlight) : List Byte :=
  match f with
  | none => leBytes 8 0
  | some x =>
    leBytes 1 1 ++ leBytes 2 x.sequence.toNat ++ leBytes 1 x.event.code ++ x.handle.bytes ++ leBytes 1 x.redeliveries

/-- The 48 bytes of a PORT_STATUS result (R170). DESIGN CHOICE: tag n stands at bit n of its set, counted from the least
significant bit of the first byte; section 12.3.1 says only that each tag has one bit (log 26). -/
def State.portView (s : State) (p : Port) : List Byte :=
  let r := s.port p
  leBytes 1 r.state.code ++ leBytes 1 (boolCode r.linkFlag) ++ leBytes 1 r.epoch.toNat ++
    presence 4 (r.helloPending.map BitVec.toNat) ++ leBytes 1 ((r.fenceCause.map FenceCause.code).getD 0) ++
    leBytes 4 r.hostId.toNat ++ refusalBytes r.refusal ++ leBytes 1 (s.leasesHeld p) ++ leBytes 3 (s.granulesHeld p) ++
    leBytes 1 r.commandQueue.length ++ leBytes 1 r.accessQueue.length ++ leBytes 2 r.outbound.length ++
    leBytes 1 r.commandTags.toNat ++ leBytes 4 r.readTags.toNat ++ leBytes 1 (s.slotsOf p).length ++
    leBytes 1 ((s.slotsOf p).filter (fun x => x.orphaned)).length ++ leBytes 1 r.unit.entries.length ++
    inFlightBytes r.unit.inFlight ++ leBytes 2 r.unit.sequence.toNat

/-- The 17 fixed bytes of IDENTIFY (R169). -/
def identifyBytes : List Byte :=
  leBytes 2 0x0001 ++ leBytes 1 0x01 ++ leBytes 2 416 ++ leBytes 1 0x01 ++ leBytes 1 4 ++ leBytes 2 256 ++
    leBytes 1 16 ++ leBytes 1 64 ++ leBytes 1 32 ++ leBytes 2 512 ++ leBytes 1 64 ++ leBytes 1 8 ++ leBytes 1 32

/-- The code of the source of a start-up. -/
def StartUpSource.code : StartUpSource → Nat
  | .slot n => n.val
  | .kept => 4

/-- The code of a fallback reason, 0 for none. -/
def fallbackCode : Option FallbackReason → Nat
  | none => 0
  | some .bootCellInvalid => 1
  | some .slotInvalid => 2

/-- The outcome of a standing entry: its code and the record index, 0 unless ACCEPTED. -/
def EntryOutcome.bytes : EntryOutcome → List Byte
  | .unused => [0, 0]
  | .accepted i => 1 :: leBytes 1 i.val
  | .zeroCount => [2, 0]
  | .beyondPool => [3, 0]
  | .noHolder => [4, 0]
  | .sharedWriter => [5, 0]
  | .overlap => [6, 0]

/-- The validity of the four slots, bit n for slot n. DESIGN CHOICE: bits 4 to 7 of the byte hold 0; section 12.3.1 names
bits 0 to 3 alone (log 26). -/
def State.slotValidity (s : State) : Nat :=
  ((List.finRange 4).map (fun n => if (s.validImage n).isSome then 2 ^ n.val else 0)).sum

/-- The boot cell: valid, and the slot it names. -/
def BootCell.bytes (c : BootCell) : List Byte :=
  leBytes 1 (boolCode c.named.isSome) ++ leBytes 1 ((c.named.map Fin.val).getD 0)

/-- The NV operation state and its slot. -/
def nvBytes : Option NvOperation → List Byte
  | none => [0, 0]
  | some (.save t _) => 1 :: leBytes 1 (t.val + 1)
  | some (.select n) => 2 :: leBytes 1 n.val

/-- The 54 bytes of a STATUS result (R169). -/
def State.statusView (s : State) : List Byte :=
  leBytes 4 s.clock.toNat ++ leBytes 3 s.geometry.poolGranules ++ leBytes 1 (boolCode s.geometry.initScrub) ++
    leBytes 1 s.report.source.code ++ leBytes 1 (fallbackCode s.report.fallback) ++
    s.report.outcomes.toList.flatMap EntryOutcome.bytes ++ leBytes 1 s.slotValidity ++ s.bootCell.bytes ++
    nvBytes s.nvOperation ++ leBytes 2 (s.leases.toList.filter LeaseRecord.live).length ++
    leBytes 1 s.waitQueue.length ++ leBytes 2 s.scrubQueue.length ++ leBytes 2 s.held.length

/-- The 5 bytes of an ALERT_READ result (R177). -/
def State.alertView (s : State) : List Byte :=
  leBytes 2 s.alertCauses.toNat ++ leBytes 2 s.alertMaskBits.toNat ++ leBytes 1 (boolCode s.alertAsserted)

/-! ## Response frames and read transfers (R167, R182) -/

/-- The result codes. -/
def ServiceResult.code : ServiceResult → Nat
  | .ok => 0
  | .accepted => 1
  | .busy => 2
  | .badFrame => 3
  | .badCommand => 4
  | .badValue => 5
  | .stale => 6
  | .notLive => 7
  | .refusedFactory => 8
  | .invalidSlot => 9

/-- A frame with its CRC-8. -/
def sealed (b : List Byte) : List Byte := b ++ [crc8 b]

/-- A response frame: code echoed, result, result length, result fields, CRC-8. -/
def ServiceResponse.frame (r : ServiceResponse) : List Byte :=
  sealed (r.code :: (leBytes 1 r.result.code ++ leBytes 2 r.fields.length ++ r.fields))

/-- The ready byte (R167): NOT_READY until readiness, then RESPONSE or NONE. -/
def State.readyByte (s : State) : Byte :=
  if s.phase ≠ .ready then 0 else if s.response.isSome then 2 else 1

/-- What a read transfer returns on data out from its second byte on: the ready byte, and then the response held, or
a frame with no result when none is held (R167, R182). DESIGN CHOICE: that frame follows NOT_READY as it follows NONE;
R182 gives it with NONE alone (log 23). -/
def State.readTransfer (s : State) : List Byte :=
  s.readyByte ::
    (match s.response with
    | some r => r.frame
    | none => sealed [0, 0, 0, 0])

/-- What data out carries through a transfer with these bytes on data in: FFh during the first byte of every transfer
and through the whole of a request transfer; from the second byte of a read transfer on, what `readTransfer` gives, as
far as the transfer reaches (R167). The list ends with the response frame: no rule says what follows it (log 19). -/
def State.dataOut (s : State) (t : List Byte) : List Byte :=
  if isRequestTransfer t then List.replicate t.length 0xFF else 0xFF :: s.readTransfer.take (t.length - 1)

end Sys2Proof.Machine
end

