-- ==== Sys2Proof/Machine/Startup.lean ====
section
/-! DEFINITION. Start-up and resets (Chapter 10): the choice of the boot slot, capture, validation and instantiation
of the standing entries, the rebuilding of the scrub queue, device reset, RESET# and readiness. -/

namespace Sys2Proof.Machine

/-! ## Standing entries (R159, R18) -/

/-- What the validation of a standing entry finds (R159). -/
inductive EntryVerdict where
  | unused
  | accepted
  | zeroCount
  | beyondPool
  | noHolder
  | sharedWriter
  | overlap
  deriving DecidableEq, Repr

/-- The extent of a standing entry. -/
def StandingEntry.extent (e : StandingEntry) : Extent := ⟨e.base, e.count⟩

/-- The tests of R159 on one entry, in order, against the extents accepted earlier. -/
def StandingEntry.verdict (e : StandingEntry) (granules : Nat) (earlier : List Extent) : EntryVerdict :=
  if e.used = false then .unused
  else if e.count = 0 then .zeroCount
  else if granules < e.base + e.count then .beyondPool
  else if e.rights.toList.all (fun r => decide (r = .none)) then .noHolder
  else if e.kind = .shared ∧ .readWrite ∈ e.rights.toList then .sharedWriter
  else if earlier.any (fun x => x.overlaps e.extent) then .overlap
  else .accepted

/-- The verdicts on a list of entries in entry order (R159). -/
def verdicts (granules : Nat) : List Extent → List StandingEntry → List EntryVerdict
  | _, [] => []
  | earlier, e :: rest =>
    let v := e.verdict granules earlier
    v :: verdicts granules (if v = .accepted then earlier ++ [e.extent] else earlier) rest

/-- The right of a holder entry that an entry's right gives; none for NONE. -/
def EntryRight.holderRight : EntryRight → Option Right
  | .none => Option.none
  | .read => some .read
  | .readWrite => some .readWrite

/-- The holders of a standing lease: the ports with a right, in port order, term 0 and no deadline (R18). -/
def StandingEntry.holders (e : StandingEntry) : List Holder :=
  (List.finRange 4).filterMap (fun p => (e.rights.get p).holderRight.map (fun r => ⟨p, r, 0, none⟩))

/-- The kind of a standing lease. -/
def StandingKind.leaseKind : StandingKind → LeaseKind
  | .common => .common
  | .shared => .shared

/-- The record of a standing lease (R18). -/
def State.standingRecord (s : State) (i : RecordIndex) (n : EntryNumber) (e : StandingEntry) : LeaseRecord :=
  { generation := (s.lease i).generation + 1
    state := .active
    kind := some e.kind.leaseKind
    standing := some n
    written := decide (e.kind = .common)
    base := e.base
    count := e.count
    holders := e.holders
    creator := none
    notice := none
    revokeCause := none
    drainCount := 0
    damage := none
    retireHeld := false }

/-- The outcome of an entry is put into the start-up report (R159). -/
def State.noteOutcome (s : State) (n : EntryNumber) (o : EntryOutcome) : State :=
  { s with report := { s.report with outcomes := s.report.outcomes.set n o } }

/-- An entry acted on by its verdict: an accepted one is instantiated into the lowest-index FREE record (R160), a
skipped one sets PROFILE_FAULT (R159), and each leaves its outcome in the report. -/
def State.settleEntry (s : State) (n : EntryNumber) (v : EntryVerdict) : State :=
  match v with
  | .unused => s.noteOutcome n .unused
  | .accepted =>
    match s.lowestFree with
    | some i => (s.setLease i (s.standingRecord i n s.standingSet[n])).noteOutcome n (.accepted i)
    | none => s
  | .zeroCount => (s.noteOutcome n .zeroCount).setAlert .profileFault
  | .beyondPool => (s.noteOutcome n .beyondPool).setAlert .profileFault
  | .noHolder => (s.noteOutcome n .noHolder).setAlert .profileFault
  | .sharedWriter => (s.noteOutcome n .sharedWriter).setAlert .profileFault
  | .overlap => (s.noteOutcome n .overlap).setAlert .profileFault

/-- Validation and instantiation of the captured standing set (R158, steps 4 and 5). -/
def State.instantiate (s : State) : State :=
  ((List.finRange 16).zip (verdicts s.geometry.poolGranules [] s.standingSet.toList)).foldl
    (fun t x => t.settleEntry x.1 x.2) s

/-! ## The scrub queue (R101) -/

/-- An extent put in its place by base. -/
def insertExtent (e : Extent) : List Extent → List Extent
  | [] => [e]
  | x :: rest => if e.base ≤ x.base then e :: x :: rest else x :: insertExtent e rest

/-- The extents of the live leases, lowest base first. -/
def State.coveredExtents (s : State) : List Extent :=
  ((s.leases.toList.filter LeaseRecord.live).map LeaseRecord.extent).foldl (fun l e => insertExtent e l) []

/-- The maximal runs of granules from `at` up to the pool size that no extent of the ordered list covers. -/
def uncoveredRuns (granules : Nat) : Nat → List Extent → List Extent
  | start, [] => if start < granules then [⟨start, granules - start⟩] else []
  | start, e :: rest =>
    (if start < e.base then [⟨start, e.base - start⟩] else []) ++ uncoveredRuns granules (max start (e.base + e.count)) rest

/-- The rebuilt scrub queue (R101). -/
def State.rebuildScrubQueue (s : State) : State :=
  { s with
    scrubQueue := if s.geometry.initScrub then uncoveredRuns s.geometry.poolGranules 0 s.coveredExtents else [] }

/-! ## The start-up sequence (R158, R161) -/

/-- Steps 3 to 6: capture, validation, instantiation and the scrub queue; the start-up report names the source. -/
def State.startUp (s : State) (source : StartUpSource) (fallback : Option FallbackReason) : State :=
  let s1 :=
    { s with
      geometry := { poolGranules := s.running.poolGranules, initScrub := s.running.initScrub }
      standingSet := s.running.standing
      report := { source := source, fallback := fallback, outcomes := Vector.replicate 16 .unused } }
  s1.instantiate.rebuildScrubQueue

/-- The slot that a power-on start-up loads, its image, and the reason of a fallback (R158, step 1). -/
def State.bootSource (s : State) : Fin 4 × Profile × Option FallbackReason :=
  match s.bootCell.named with
  | none => (0, factoryProfile, some .bootCellInvalid)
  | some n =>
    match s.validImage n with
    | some f => (n, f, none)
    | none => (0, factoryProfile, some .slotInvalid)

/-- Steps 1 to 6 of power-on start-up (R158). -/
def State.powerOnStartUp (s : State) : State :=
  let b := s.bootSource
  let s1 := if b.2.2.isSome then s.setAlert .profileFault else s
  { ({ s1 with running := b.2.1 }).startUp (.slot b.1) b.2.2 with phase := .startingUp true }

/-- The state after power-on and before step 1 of its start-up (R158): the profile slots and the boot cell keep what
they hold, an NV operation is abandoned (R164), the pool's contents are unknown, and all else is as after power-on. -/
def State.powerOnBlank (s : State) : State :=
  { State.reset with
    pending := s.pending
    scrubQueue := []
    userSlots := s.userSlots
    bootCell := s.bootCell
    pool := { cells := [], backgrounds := [], powerOn := s.choices }
    choices := s.choices + 1 }

/-- POWER_ON_RESET (R158): start-up begins when RESET# is not asserted, and is held while it is (R161). -/
def execPowerOnReset (s : State) : Host.Outcome State Fault Refusal :=
  if s.resetAsserted then .next { s.powerOnBlank with phase := .powerOnHeld } else .next s.powerOnBlank.powerOnStartUp

/-- A port after device reset and before readiness (R153): the epoch is kept, and so is the link itself. The port
state is settled at readiness; until then the model holds DOWN (log 10). -/
def PortRecord.deviceReset (r : PortRecord) : PortRecord :=
  { state := .down, linkFlag := false, epoch := r.epoch, helloPending := none, fenceCause := none, hostId := 0,
    outbound := [], commandQueue := [], accessQueue := [], refusal := none, commandTags := 0, readTags := 0,
    unit := emptyUnit, lineUp := r.lineUp }

/-- Every block in its state after device reset, before step 3 of the start-up (R2, R21, R41, R73, R91, R101, R102,
R106, R124, R125, R153, R161, R164, R178). -/
def State.deviceResetBlocks (s : State) : State :=
  let s1 := s.abandonOperations
  { s1 with
    clock := 0
    leases := mapVector (fun r => emptyRecord r.generation) s.leases
    held := []
    ports := mapVector PortRecord.deviceReset s.ports
    waitQueue := []
    commandServed := 3
    accessServed := 3
    hostSlots := Vector.replicate 63 none
    scrubQueue := []
    nvOperation := none
    alertCauses := 0 }

/-- Steps 3 to 6 after a device reset (R161). -/
def State.deviceResetStartUp (s : State) : State := { s.startUp .kept none with phase := .startingUp false }

/-- RESET_ASSERT (R173, R161): a device reset that empties the response buffer; the part stays in reset. -/
def execResetAssert (s : State) : Host.Outcome State Fault Refusal :=
  if s.resetAsserted then .refused .resetLineUnchanged
  else .next { s.deviceResetBlocks with response := none, phase := .resetHeld }

/-- RESET_RELEASE (R161): the start-up sequence begins, from step 1 after a power-on and from step 3 otherwise. -/
def execResetRelease (s : State) : Host.Outcome State Fault Refusal :=
  match s.phase with
  | .powerOnHeld => .next s.powerOnStartUp
  | .resetHeld => .next s.deviceResetStartUp
  | .startingUp _ | .ready => .refused .resetLineUnchanged

/-! ## Readiness (R160) -/

/-- A port at readiness (R152, R153): LINKED when its link is up, DOWN when it is down. -/
def PortRecord.place (r : PortRecord) : PortRecord :=
  if r.lineUp then { r with state := .linked, linkFlag := true } else { r with state := .down, linkFlag := false }

/-- The PORT_LINK causes that readiness after power-on sets: those of the ports whose link is up (R152). -/
def State.linkAlerts (s : State) : State :=
  (List.finRange 4).foldl (fun t p => if (s.port p).lineUp then t.setAlert (.portLink p) else t) s

/-- BECOME_READY (R160): the first zero-fill is issued, the ports are placed, and requests are taken from now on. -/
def execBecomeReady (s : State) : Host.Outcome State Fault Refusal :=
  match s.phase with
  | .startingUp powerOn =>
    let s1 := { s with phase := .ready, ports := mapVector PortRecord.place s.ports }
    .next (if powerOn then s1.linkAlerts else s1).issueZeroFill
  | .powerOnHeld | .resetHeld | .ready => .refused .notStartingUp

end Sys2Proof.Machine
end

