-- ==== Sys2Proof/Machine/Service.lean ====
section
/-! DEFINITION. The service unit (Chapter 11): the response buffer, the requests that read, the alerts, the port and
lease requests, the profile fields and the NV operations. -/

namespace Sys2Proof.Machine

/-! ## The response buffer -/

/-- A response takes the place of what the buffer held (R167). -/
def State.putResponse (s : State) (code : Byte) (r : ServiceResult) (fields : List Byte) : State :=
  { s with response := some ⟨code, r, fields⟩ }

/-- A request that the service unit takes: before readiness none is taken (R160, R166); else `act` gives the event
with the request's effects, its result and its result fields. -/
def service (code : Byte) (act : Work → Work × ServiceResult × List Byte) (s : State) :
    Host.Outcome State Fault Refusal :=
  if s.phase ≠ .ready then .next s
  else
    let r := act (.start s)
    (r.1.onState (fun t => t.putResponse code r.2.1 r.2.2)).done

/-- A request that only reads: OK with result fields, and no other change (R168). -/
def report (code : Byte) (fields : State → List Byte) (s : State) : Host.Outcome State Fault Refusal :=
  service code (fun w => (w, .ok, fields w.st)) s

/-- BAD_FRAME (R166): the code byte is echoed, 0 when the transfer holds none. -/
def execBadFrame (t : List Byte) (s : State) : Host.Outcome State Fault Refusal :=
  if decodeTransfer t = some (.badFrame t) then service (t.headD 0) (fun w => (w, .badFrame, [])) s
  else .refused .transferOfAnotherRow

/-- BAD_COMMAND (R166). -/
def execBadCommand (t : List Byte) (s : State) : Host.Outcome State Fault Refusal :=
  if decodeTransfer t = some (.badCommand t) then service (t.headD 0) (fun w => (w, .badCommand, [])) s
  else .refused .transferOfAnotherRow

/-! ## Requests that read -/

/-- IDENTIFY (R169). -/
def execIdentify (s : State) : Host.Outcome State Fault Refusal := report 0x01 (fun _ => identifyBytes) s

/-- STATUS (R169). -/
def execStatus (s : State) : Host.Outcome State Fault Refusal := report 0x02 State.statusView s

/-- ALERT_READ (R177). -/
def execAlertRead (s : State) : Host.Outcome State Fault Refusal := report 0x03 State.alertView s

/-- PORT_STATUS (R170). -/
def execPortStatus (port : Byte) (s : State) : Host.Outcome State Fault Refusal :=
  service 0x06 (fun w =>
    match portOfByte port with
    | none => (w, .badValue, [])
    | some p => (w, .ok, w.st.portView p)) s

/-- LEASE_READ (R171). -/
def execLeaseRead (index : BitVec 16) (s : State) : Host.Outcome State Fault Refusal :=
  service 0x09 (fun w =>
    if h : index.toNat < 256 then (w, .ok, w.st.recordView ⟨index.toNat, h⟩) else (w, .badValue, [])) s

/-- LEASE_NEXT (R171). -/
def execLeaseNext (granule : BitVec 24) (s : State) : Host.Outcome State Fault Refusal :=
  service 0x0A (fun w =>
    if granule.toNat ≤ 65535 then (w, .ok, w.st.nextView granule.toNat) else (w, .badValue, [])) s

/-- WAIT_READ (R74). -/
def execWaitRead (s : State) : Host.Outcome State Fault Refusal := report 0x0C State.waitView s

/-- SCRUB_READ (R103). -/
def execScrubRead (s : State) : Host.Outcome State Fault Refusal := report 0x0D State.scrubView s

/-- FIELD_READ (R174). -/
def execFieldRead (x : Selector) (s : State) : Host.Outcome State Fault Refusal :=
  service 0x0F (fun w =>
    match ProfileField.ofSelector x with
    | none => (w, .badValue, [])
    | some f => (w, .ok, leBytes 3 (w.st.running.fieldValue f))) s

/-! ## Alerts (R177) -/

/-- ALERT_CLEAR (R177): a bit above bit 11 names no cause (section 12.3). -/
def execAlertClear (causes : BitVec 16) (s : State) : Host.Outcome State Fault Refusal :=
  service 0x04 (fun w =>
    if causes.toNat < 4096 then
      (w.onState (fun t => { t with alertCauses := t.alertCauses &&& ~~~(causes.setWidth 12) }), .ok, [])
    else (w, .badValue, [])) s

/-- ALERT_MASK (R177). -/
def execAlertMask (mask : BitVec 16) (s : State) : Host.Outcome State Fault Refusal :=
  service 0x05 (fun w =>
    if mask.toNat < 4096 then (w.onState (fun t => { t with alertMaskBits := mask.setWidth 12 }), .ok, [])
    else (w, .badValue, [])) s

/-! ## Ports and leases -/

/-- REFUSAL_CLEAR (R170). -/
def execRefusalClear (port : Byte) (s : State) : Host.Outcome State Fault Refusal :=
  service 0x07 (fun w =>
    match portOfByte port with
    | none => (w, .badValue, [])
    | some p => (w.onState (fun t => t.setPort p { t.port p with refusal := none }), .ok, [])) s

/-- PORT_RESET (R149): an ONLINE port is fenced with cause RESET; any other stays as it is. -/
def execPortReset (port : Byte) (s : State) : Host.Outcome State Fault Refusal :=
  service 0x08 (fun w =>
    match portOfByte port with
    | none => (w, .badValue, [])
    | some p => (if (w.st.port p).state = .online then w.fenceStart p .reset none else w, .ok, [])) s

/-- The notice field and the notice deadline set for a lease, and REVOKE_NOTICE raised for each holder (R77, R79). -/
def Work.giveNotice (w : Work) (i : RecordIndex) (deadline : ClockValue) : Work :=
  (w.onState (fun s =>
    s.setLease i { s.lease i with
      state := .notice, notice := some ⟨.forced, deadline⟩, revokeCause := some .forced })).raiseHolders i
    (.revokeNotice deadline)

/-- FORCE_REVOKE at the lease table (R77, R78, R79). -/
def forceRevoke (h : Handle) (grace : Nat) (w : Work) : Work × ServiceResult :=
  let r := w.st.lease h.index
  if w.st.resolves h = false then (w, .stale)
  else if r.state = .draining then (w, .notLive)
  else if grace = 0 then (w.revokeAll h.index, .ok)
  else
    match r.notice with
    | some n =>
      if r.state = .notice && !earlier (w.st.after grace) n.deadline then (w, .ok)
      else (w.giveNotice h.index (w.st.after grace), .ok)
    | none => (w.giveNotice h.index (w.st.after grace), .ok)

/-- FORCE_REVOKE (R77, R172). -/
def execForceRevoke (h : Handle) (grace : BitVec 16) (s : State) : Host.Outcome State Fault Refusal :=
  service 0x0B (fun w =>
    if 10000 < grace.toNat then (w, .badValue, [])
    else
      let r := forceRevoke h grace.toNat w
      (r.1, r.2, [])) s

/-- DEVICE_RESET (R173): answered OK, and then the device reset with its start-up; the response is kept. -/
def execDeviceReset (s : State) : Host.Outcome State Fault Refusal :=
  if s.phase ≠ .ready then .next s
  else .next (s.putResponse 0x0E .ok []).deviceResetBlocks.deviceResetStartUp

/-! ## Profile fields (R174) -/

/-- FIELD_WRITE (R174). -/
def execFieldWrite (x : Selector) (value : BitVec 24) (s : State) : Host.Outcome State Fault Refusal :=
  service 0x10 (fun w =>
    match ProfileField.ofSelector x with
    | none => (w, .badValue, [])
    | some f =>
      match w.st.running.writeField f value.toNat with
      | none => (w, .badValue, [])
      | some q =>
        let w' := w.onState (fun t => { t with running := q })
        (if f.startsScan then w'.needScan else w', .ok, [])) s

/-! ## Profile store (R162 to R165) -/

/-- A slot number of a request, none above 3 (R162, check 1). -/
def slotOfByte (b : Byte) : Option (Fin 4) := if h : b.toNat < 4 then some ⟨b.toNat, h⟩ else none

/-- A slot without its valid mark (R162). -/
def ProfileSlot.unmarked (x : ProfileSlot) : ProfileSlot := { x with validMark := false }

/-- A boot cell whose second byte is not the complement of the first, and which is so invalid (R155, log 9). -/
def BootCell.spoiled (c : BootCell) : BootCell := { c with complement := c.number }

/-- PROFILE_SAVE (R162): the image is a copy of the running profile, and the target slot becomes invalid. -/
def execProfileSave (slot : Byte) (s : State) : Host.Outcome State Fault Refusal :=
  service 0x11 (fun w =>
    match slotOfByte slot with
    | none => (w, .badValue, [])
    | some n =>
      if h : n.val = 0 then (w, .refusedFactory, [])
      else if w.st.nvOperation.isSome then (w, .busy, [])
      else
        let k : Fin 3 := ⟨n.val - 1, by omega⟩
        (w.onState (fun t =>
          { t with
            userSlots := t.userSlots.set k t.userSlots[k].unmarked
            nvOperation := some (.save k t.running) }), .accepted, [])) s

/-- PROFILE_LOAD (R165). -/
def execProfileLoad (slot : Byte) (s : State) : Host.Outcome State Fault Refusal :=
  service 0x12 (fun w =>
    match slotOfByte slot with
    | none => (w, .badValue, [])
    | some n =>
      if w.st.nvOperation.isSome then (w, .busy, [])
      else
        match w.st.validImage n with
        | none => (w, .invalidSlot, [])
        | some f => ((w.onState (fun t => { t with running := f })).needScan, .ok, [])) s

/-- BOOT_SELECT (R162): the boot cell becomes invalid. -/
def execBootSelect (slot : Byte) (s : State) : Host.Outcome State Fault Refusal :=
  service 0x13 (fun w =>
    match slotOfByte slot with
    | none => (w, .badValue, [])
    | some n =>
      if w.st.nvOperation.isSome then (w, .busy, [])
      else
        (w.onState (fun t => { t with bootCell := t.bootCell.spoiled, nvOperation := some (.select n) }), .accepted,
          [])) s

/-- The target of an NV operation whose read-back agrees (R163). -/
def State.nvWritten (s : State) (o : NvOperation) : State :=
  match o with
  | .save k f => { s with userSlots := s.userSlots.set k { image := f, validMark := true, check := f.checkValue } }
  | .select n => { s with bootCell := { number := BitVec.ofNat 8 n.val, complement := ~~~(BitVec.ofNat 8 n.val) } }

/-- NV_OPERATION_COMPLETE (R163). -/
def execNvOperationComplete (agrees : Bool) (s : State) : Host.Outcome State Fault Refusal :=
  match s.nvOperation with
  | none => .refused .noNvOperation
  | some o =>
    if agrees then .next ({ s.nvWritten o with nvOperation := none }.setAlert .nvDone)
    else .next ({ s with nvOperation := none }.setAlert .nvFailed)

end Sys2Proof.Machine
end

