-- ==== Sys2Proof/Machine/Dispatch.lean ====
section
/-! DEFINITION. One arm per row of the opcode table. -/

namespace Sys2Proof.Machine

def exec (i : Instr) (s : State) : Host.Outcome State Fault Refusal :=
  match i with
  | .readArrival p k => Sys2Proof.Machine.execReadArrival p k s
  | .writeArrival p k => Sys2Proof.Machine.execWriteArrival p k s
  | .commandArrival p k => Sys2Proof.Machine.execCommandArrival p k s
  | .noticeAck p k => Sys2Proof.Machine.execNoticeAck p k s
  | .hello p k => Sys2Proof.Machine.execHello p k s
  | .linkUp p => Sys2Proof.Machine.execLinkUp p s
  | .linkLoss p => Sys2Proof.Machine.execLinkLoss p s
  | .packetSent p => Sys2Proof.Machine.execPacketSent p s
  | .acquire => Sys2Proof.Machine.execAcquire s
  | .join => Sys2Proof.Machine.execJoin s
  | .renew => Sys2Proof.Machine.execRenew s
  | .release => Sys2Proof.Machine.execRelease s
  | .convert => Sys2Proof.Machine.execConvert s
  | .cancel => Sys2Proof.Machine.execCancel s
  | .lookup => Sys2Proof.Machine.execLookup s
  | .malformedCommand => Sys2Proof.Machine.execMalformedCommand s
  | .waitDeadlineExpiry p tag => Sys2Proof.Machine.execWaitDeadlineExpiry p tag s
  | .holderExpiry n p => Sys2Proof.Machine.execHolderExpiry n p s
  | .noticeDeadline n => Sys2Proof.Machine.execNoticeDeadline n s
  | .readTaking => Sys2Proof.Machine.execReadTaking s
  | .writeTaking => Sys2Proof.Machine.execWriteTaking s
  | .readCompletion slot poolError => Sys2Proof.Machine.execReadCompletion slot poolError s
  | .writeCompletion slot => Sys2Proof.Machine.execWriteCompletion slot s
  | .zeroFillCompletion => Sys2Proof.Machine.execZeroFillCompletion s
  | .ackTimerExpiry p => Sys2Proof.Machine.execAckTimerExpiry p s
  | .badFrame t => Sys2Proof.Machine.execBadFrame t s
  | .badCommand t => Sys2Proof.Machine.execBadCommand t s
  | .identify => Sys2Proof.Machine.execIdentify s
  | .status => Sys2Proof.Machine.execStatus s
  | .alertRead => Sys2Proof.Machine.execAlertRead s
  | .alertClear causes => Sys2Proof.Machine.execAlertClear causes s
  | .alertMask mask => Sys2Proof.Machine.execAlertMask mask s
  | .portStatus port => Sys2Proof.Machine.execPortStatus port s
  | .refusalClear port => Sys2Proof.Machine.execRefusalClear port s
  | .portReset port => Sys2Proof.Machine.execPortReset port s
  | .leaseRead index => Sys2Proof.Machine.execLeaseRead index s
  | .leaseNext granule => Sys2Proof.Machine.execLeaseNext granule s
  | .forceRevoke h grace => Sys2Proof.Machine.execForceRevoke h grace s
  | .waitRead => Sys2Proof.Machine.execWaitRead s
  | .scrubRead => Sys2Proof.Machine.execScrubRead s
  | .deviceReset => Sys2Proof.Machine.execDeviceReset s
  | .fieldRead x => Sys2Proof.Machine.execFieldRead x s
  | .fieldWrite x value => Sys2Proof.Machine.execFieldWrite x value s
  | .profileSave slot => Sys2Proof.Machine.execProfileSave slot s
  | .profileLoad slot => Sys2Proof.Machine.execProfileLoad slot s
  | .bootSelect slot => Sys2Proof.Machine.execBootSelect slot s
  | .nvOperationComplete agrees => Sys2Proof.Machine.execNvOperationComplete agrees s
  | .powerOnReset => Sys2Proof.Machine.execPowerOnReset s
  | .resetAssert => Sys2Proof.Machine.execResetAssert s
  | .resetRelease => Sys2Proof.Machine.execResetRelease s
  | .becomeReady => Sys2Proof.Machine.execBecomeReady s
  | .leaseClockTick => Sys2Proof.Machine.execLeaseClockTick s

end Sys2Proof.Machine
end

