-- ==== Sys2Proof/Safety.lean ====
section
/-! DEFINITION. What counts as a safe state of the LC-416: the laws of the device that the manual states for every
event, as properties of one state, each with the clauses that make it hold step by step. Beside them, the small
words in which statements about steps are written. -/

namespace Sys2Proof.Safety

open Sys2Proof.Machine

/-! ## Laws of the device -/

/-- The capacities of the outbound lists, the command queues and the access queues, and the redelivery count (R40, R104,
R125, R141). -/
def Capacities (s : State) : Prop :=
  ∀ p, (s.port p).outbound.length ≤ 128 ∧ (s.port p).commandQueue.length ≤ 8 ∧ (s.port p).accessQueue.length ≤ 8 ∧
    ∀ f ∈ (s.port p).unit.inFlight, f.redeliveries ≤ 3

/-- The number of occupied host slots whose lease index names the record (R116). -/
def slotsNaming (s : State) (i : RecordIndex) : Nat :=
  (s.hostSlots.toList.filterMap id |>.filter (fun x => decide (x.lease = i))).length

/-- The drain count of each lease is the number of occupied host slots that name it, and 0 in a FREE record (R116).
The records on the held-retirement list are DRAINING, drained, and listed once (R14, R16). -/
def DrainLaw (s : State) : Prop :=
  (∀ i, (s.lease i).drainCount = slotsNaming s i) ∧ (∀ i, (s.lease i).state = .free → (s.lease i).drainCount = 0) ∧
    s.held.Nodup ∧ (∀ i ∈ s.held, (s.lease i).state = .draining ∧ (s.lease i).drainCount = 0)

/-- The wait queue holds at most 32 entries, at most 4 of one port, no two with the same port and tag (R63), and a
command tag is outstanding exactly while an entry holds it (R43). A notification unit holds at most 64 pending entries,
at most one of a handle (R129). A port that is not ONLINE holds no non-standing live lease (R150), no wait-queue entry
(R63), no queued command (R40), no tag (R43, R112) and no notification (R129). A FREE or DRAINING record has no holder
(R6, R85). -/
def PortLaw (s : State) : Prop :=
  (∀ i, (s.lease i).inForce = false → (s.lease i).holders = []) ∧ s.waitQueue.length ≤ 32 ∧
    (∀ p, (s.waitQueue.filter (fun e => decide (e.port = p))).length ≤ 4) ∧
    s.waitQueue.Pairwise (fun x y => ¬ (x.port = y.port ∧ x.tag = y.tag)) ∧
    (∀ (p : Port) (t : CommandTag),
      (s.port p).commandTags.getLsbD t.val = true ↔ ∃ e ∈ s.waitQueue, e.port = p ∧ e.tag = t) ∧
    (∀ p, (s.port p).unit.entries.length ≤ 64 ∧ ((s.port p).unit.entries.map (fun e => e.handle)).Nodup) ∧
    (∀ p, (s.port p).state ≠ .online →
      (∀ i, (s.lease i).standing = none → (s.lease i).holds p = false) ∧ (∀ e ∈ s.waitQueue, e.port ≠ p) ∧
        (s.port p).commandQueue = [] ∧ (s.port p).commandTags = 0 ∧ (s.port p).readTags = 0 ∧
        (s.port p).unit.entries = [] ∧ (s.port p).unit.inFlight = none ∧ (s.port p).unit.ackTimer = none)

/-- The lease tolerates other leases beside it: it is SHARED and not written (R31). -/
def shareable (r : LeaseRecord) : Prop := r.kind = some .shared ∧ r.written = false

/-- The exclusion laws: a granule in a live lease that is EXCLUSIVE, COMMON or written lies in no other live lease
(R31); no granule lies both in a live lease and in the scrub queue (R32); the extents of the scrub queue are pairwise
disjoint and number at most 512 (R93); a record on the held list is live, listed once, and of a lease that tolerates no other (R86, R88);
a live record has a kind (R1). While RESET# holds the part every record is FREE (R2, R161). -/
def Exclusion (s : State) : Prop :=
  (s.resetAsserted = true → ∀ i, (s.lease i).state = .free) ∧
    (∀ i j, i ≠ j → (s.lease i).live → (s.lease j).live → (s.lease i).extent.overlaps (s.lease j).extent →
      shareable (s.lease i)) ∧
    (∀ i, (s.lease i).live → ∀ x ∈ s.scrubQueue, (s.lease i).extent.overlaps x = false) ∧
    s.scrubQueue.Pairwise (fun x y => x.overlaps y = false) ∧ s.scrubQueue.length ≤ 512 ∧
    (s.held.Nodup ∧ ∀ i ∈ s.held, (s.lease i).live ∧ ¬ shareable (s.lease i)) ∧
    (∀ i, (s.lease i).live → (s.lease i).kind.isSome)

/-- The scrub engine's law: a zero-fill in flight is of the first granule of the head extent, and when the part is
ready one is in flight exactly while the queue holds an extent; before readiness none is (R94, R95). -/
def ScrubEngineLaw (s : State) : Prop :=
  s.scrubSlot = if s.phase = .ready then s.scrubQueue.head?.map Extent.base else none

/-- The port state and the link flag go together (R140), the flag is the link's own state once the part is ready
(R139), and hello-pending is clear outside FENCING (R140). Before readiness every port is DOWN, as after power-on (R152),
and as the model holds it after a device reset (log 10). -/
def LinkLaw (s : State) : Prop :=
  ∀ p,
    ((s.port p).state ≠ .fencing → (s.port p).helloPending = none) ∧
    ((s.port p).linkFlag = false → (s.port p).helloPending = none) ∧
    (s.phase = .ready →
      (s.port p).linkFlag = (s.port p).lineUp ∧ ((s.port p).state = .down → (s.port p).linkFlag = false) ∧
        ((s.port p).state = .linked ∨ (s.port p).state = .online → (s.port p).linkFlag = true)) ∧
    (s.phase ≠ .ready → (s.port p).state = .down ∧ (s.port p).linkFlag = false)

/-- The lease clock stands at 0 until readiness (R21). -/
def ClockLaw (s : State) : Prop := s.phase ≠ .ready → s.clock = 0

/-- The laws of holders: a lease in ACTIVE or NOTICE has one to four holders on distinct ports, and one in FREE or
DRAINING none, and a holder's deadline is absent exactly when its term is 0 (R6); a non-standing EXCLUSIVE lease in ACTIVE
or NOTICE has exactly one holder, with right READ_WRITE, and every holder of a SHARED lease has right READ; a COMMON lease
is always standing, and a standing one is never EXCLUSIVE (R5). -/
def HolderLaw (s : State) : Prop :=
  ∀ i,
    ((s.lease i).inForce = false → (s.lease i).holders = []) ∧
    ((s.lease i).inForce = true →
      1 ≤ (s.lease i).holders.length ∧ (s.lease i).holders.length ≤ 4 ∧
        ((s.lease i).holders.map (fun h => h.port)).Nodup) ∧
    ((s.lease i).inForce = true → (s.lease i).standing = none → (s.lease i).kind = some .exclusive →
      (s.lease i).holders.length = 1 ∧ ∀ h ∈ (s.lease i).holders, h.right = .readWrite) ∧
    ((s.lease i).kind = some .shared → ∀ h ∈ (s.lease i).holders, h.right = .read) ∧
    ((s.lease i).kind = some .common → (s.lease i).standing.isSome = true) ∧
    ((s.lease i).kind = some .exclusive → (s.lease i).standing = none) ∧
    (∀ h ∈ (s.lease i).holders, h.deadline = none ↔ h.term = 0)

/-- The law of holdings: a port is a holder of at most 64 non-standing live leases, since LEASE_QUOTA is at most 64 in every
running profile (R7, R154). -/
def HoldingsLaw (s : State) : Prop := s.running.inRange = true ∧ ∀ p, s.leasesHeld p ≤ 64

/-- The laws of read tags: no two READs of the same port and epoch in host slots hold the same tag (R113). A tag is in
use exactly while a READ in a slot that is not orphaned holds it (R112). A port with an occupied slot is ONLINE or
FENCING, its slots carry its epoch, and they are orphaned exactly while it is FENCING (R113, R122, R123). -/
def ReadTagLaw (s : State) : Prop :=
  (∀ m n x y t, m ≠ n → s.slot m = some x → s.slot n = some y → x.port = y.port → x.epoch = y.epoch →
    x.kind = .read t → y.kind ≠ .read t) ∧
  (∀ (p : Port) (t : ReadTag),
    (s.port p).readTags.getLsbD t.val = true ↔
      ∃ n x, s.slot n = some x ∧ x.port = p ∧ x.kind = .read t ∧ x.orphaned = false) ∧
  (∀ n x, s.slot n = some x →
    x.epoch = (s.port x.port).epoch ∧ ((s.port x.port).state = .online ∨ (s.port x.port).state = .fencing) ∧
      (x.orphaned = true ↔ (s.port x.port).state = .fencing))

/-! ## Words for statements about steps -/

/-- The state with packets put at the end of a port's outbound list, and nothing else changed. -/
def queued (s : State) (p : Port) (l : List OutPacket) : State :=
  s.setPort p { s.port p with outbound := (s.port p).outbound ++ l }

/-- The outbound list of the port has room for this many packets (R141). -/
abbrev Room (s : State) (p : Port) (n : Nat) : Prop := (s.port p).outbound.length + n ≤ 128

/-- The row of the opcode table that takes a lease command. -/
def rowOf : LeaseCommand → Instr
  | .acquire _ _ _ _ _ => .acquire
  | .join _ _ => .join
  | .renew _ _ => .renew
  | .release _ => .release
  | .convert _ => .convert
  | .cancel _ => .cancel
  | .lookup _ => .lookup
  | .unknown _ _ => .malformedCommand

/-- The command is the next that the command unit takes, and its tag is not outstanding (R41, R43). -/
abbrev NextWithFreeTag (s : State) (p : Port) (tag : CommandTag) (c : LeaseCommand) : Prop :=
  s.nextCommand = some (p, ⟨tag, c⟩) ∧ (s.port p).commandTags.getLsbD tag.val = false

/-- Checks in order: the first that fails gives the answer; none when all pass. -/
def firstFailure {α : Type} : List (Bool × α) → Option α
  | [] => none
  | (failed, a) :: rest => if failed then some a else firstFailure rest

/-- The term exceeds MAX_TERM, or is 0 while INDEFINITE_OK is off (R47, check 2). -/
def termFails (q : PortPolicy) (term : Nat) : Bool :=
  decide (q.maxTerm < term ∨ (term = 0 ∧ q.indefiniteOk = false))

/-- The extent is not within reach (R25). -/
def reachFails (q : PortPolicy) (e : Extent) : Bool :=
  decide (e.base < q.reachBase ∨ q.reachLimit < e.base + e.count - 1)

/-- A holding of this many more granules does not pass the quota test (R27). -/
def quotaFails (s : State) (p : Port) (q : PortPolicy) (count : Nat) : Bool :=
  decide (q.leaseQuota < s.leasesHeld p + 1 ∨ q.granuleQuota < s.granulesHeld p + count)

/-- The checks of an ACQUIRE (R47). -/
def acquireChecks (s : State) (p : Port) (kind : Byte) (e : Extent) (term maxWait : Nat) : List (Bool × Answer) :=
  [(decide (kind ≠ 1 ∧ kind ≠ 2), .malformed), (decide (e.count = 0), .malformed),
    (decide (10000 < maxWait), .malformed), (decide (s.geometry.poolGranules < e.base + e.count), .malformed),
    (termFails (s.policy p) term, .deniedTerm), (reachFails (s.policy p) e, .deniedReach),
    (quotaFails s p (s.policy p) e.count, .deniedQuota)]

/-- The handle is stale (R4). -/
def staleFails (s : State) (h : Handle) : Bool :=
  decide ((s.lease h.index).state = .free ∨ (s.lease h.index).generation ≠ h.generation)

/-- The checks of a JOIN (R50, R51). -/
def joinChecks (s : State) (p : Port) (h : Handle) (term : Nat) : List (Bool × Answer) :=
  [(staleFails s h, .stale), (decide ((s.lease h.index).state = .draining), .revoking),
    ((s.lease h.index).standing.isSome, .standing), (decide ((s.lease h.index).kind ≠ some .shared), .notShared),
    (decide ((s.lease h.index).state = .notice), .revoking), ((s.lease h.index).holds p, .alreadyHolder),
    (termFails (s.policy p) term, .deniedTerm),
    (reachFails (s.policy p) (s.lease h.index).extent, .deniedReach),
    (quotaFails s p (s.policy p) (s.lease h.index).count, .deniedQuota)]

/-- The checks of a RENEW (R50, R53). -/
def renewChecks (s : State) (p : Port) (h : Handle) (term : Nat) : List (Bool × Answer) :=
  [(staleFails s h, .stale), (decide ((s.lease h.index).state = .draining), .revoking),
    ((s.lease h.index).standing.isSome, .standing), (!(s.lease h.index).holds p, .notHolder),
    (decide ((s.lease h.index).state = .notice), .revoking), (termFails (s.policy p) term, .deniedTerm)]

/-- The checks of a RELEASE (R50, R55). -/
def releaseChecks (s : State) (p : Port) (h : Handle) : List (Bool × Answer) :=
  [(staleFails s h, .stale), (decide ((s.lease h.index).state = .draining), .revoked),
    ((s.lease h.index).standing.isSome, .standing), (!(s.lease h.index).holds p, .notHolder)]

/-- The checks of a CONVERT (R50, R57). -/
def convertChecks (s : State) (p : Port) (h : Handle) : List (Bool × Answer) :=
  [(staleFails s h, .stale), (decide ((s.lease h.index).state = .draining), .revoking),
    (!(s.lease h.index).holds p, .notHolder), (decide ((s.lease h.index).state = .notice), .revoking),
    (decide ((s.lease h.index).kind ≠ some .exclusive), .notExclusive)]

/-- The first four checks of an access (R108); for a WRITE the third does not apply. -/
def accessChecks (s : State) (p : Port) (tag : Option ReadTag) (address length : Nat) :
    List (Bool × RefusalReason) :=
  [(decide ((s.port p).state ≠ .online), .notOnline),
    (decide (length < 8 ∨ 256 < length ∨ length % 8 ≠ 0 ∨ address % 8 ≠ 0 ∨
      (address + length - 1) / 2 ^ 20 ≠ address / 2 ^ 20), .badLength),
    (tag.any (fun t => (s.port p).readTags.getLsbD t.val), .tagInUse),
    (decide (s.geometry.poolGranules ≤ address / 2 ^ 20), .outOfPool)]

/-- The lease covers the granule, in ACTIVE or NOTICE (R37). -/
abbrev CoversInForce (s : State) (i : RecordIndex) (g : Nat) : Prop :=
  ((s.lease i).state = .active ∨ (s.lease i).state = .notice) ∧ (s.lease i).base ≤ g ∧
    g ≤ (s.lease i).base + (s.lease i).count - 1

/-- The lease covers the granule and holds the port in ACTIVE or NOTICE with a right sufficient for the access (R37,
step 1). -/
abbrev Admits (s : State) (i : RecordIndex) (p : Port) (k : AccessKind) (g : Nat) : Prop :=
  CoversInForce s i g ∧ ∃ h ∈ (s.lease i).holders, h.port = p ∧ (k = .write → h.right = .readWrite)

/-- A covering lease in ACTIVE or NOTICE holds the port with right READ (R37, step 2). -/
abbrev HeldForReading (s : State) (p : Port) (g : Nat) : Prop :=
  ∃ i, CoversInForce s i g ∧ ∃ h ∈ (s.lease i).holders, h.port = p ∧ h.right = .read

/-- A covering lease is in DRAINING (R37, step 3). -/
abbrev DrainingOver (s : State) (g : Nat) : Prop :=
  ∃ i, (s.lease i).state = .draining ∧ (s.lease i).base ≤ g ∧ g ≤ (s.lease i).base + (s.lease i).count - 1

/-- A live lease covers the granule (R37, step 4). -/
abbrev LiveOver (s : State) (g : Nat) : Prop :=
  ∃ i, (s.lease i).state ≠ .free ∧ (s.lease i).base ≤ g ∧ g ≤ (s.lease i).base + (s.lease i).count - 1

/-- The reason that the admission lookup gives when no lease admits (R37, steps 2 to 5). -/
abbrev LookupReason (s : State) (p : Port) (k : AccessKind) (g : Nat) (x : RefusalReason) : Prop :=
  if k = .write ∧ HeldForReading s p g then x = .readOnly
  else if DrainingOver s g then x = .revoked
  else if LiveOver s g then x = .notHolder
  else x = .noLease

/-- The refusal record after a refusal (R121). -/
def refusalAfter (s : State) (p : Port) (k : AccessKind) (a : PoolAddress) (x : RefusalReason) : Option RefusalRecord :=
  match (s.port p).refusal with
  | none => some ⟨k, a, x, false⟩
  | some r => some { r with more := true }

/-- The record of a lease left without holder, in DRAINING (R75, R84). -/
def drainingRecord (r : LeaseRecord) (c : RevokeCause) : LeaseRecord :=
  { r with
    state := .draining
    holders := []
    notice := none
    revokeCause := some (if r.state = .notice then .forced else c) }

/-- The retirement of a lease needs a scrub (R86). -/
def scrubNeeded (s : State) (r : LeaseRecord) : Bool :=
  match r.standing with
  | none => decide (r.written = true ∧ s.running.scrubOnRetire = true)
  | some n => decide (r.kind = some .common ∧ s.standingSet[n].scrub = true)

/-- The event after the retirement step of a record, made on a state with nothing yet due (R86 to R88): the record
becomes FREE and a scan is due, its extent at the end of the scrub queue where it must be scrubbed, its zero-fill
issued where the ready part's queue was empty (R94); or, with the queue full, the retirement is held and no scan is due. -/
def retirement (s : State) (i : RecordIndex) : Work :=
  if scrubNeeded s (s.lease i) = false then ⟨s.setLease i (emptyRecord (s.lease i).generation), [], [], true⟩
  else if s.scrubQueue.length < 512 then
    ⟨{ s.setLease i (emptyRecord (s.lease i).generation) with
        scrubQueue := s.scrubQueue ++ [⟨(s.lease i).base, (s.lease i).count⟩]
        scrubSlot :=
          if s.scrubQueue = [] ∧ s.phase = .ready ∧ s.scrubSlot = none then some (s.lease i).base else s.scrubSlot },
      [], [], true⟩
  else ⟨{ s.setLease i { s.lease i with retireHeld := true } with held := s.held ++ [i] }, [], [], false⟩

/-- An event under way after the retirement step of a record, with what is due already still due (R86 to R88). -/
def afterRetirement (w : Work) (i : RecordIndex) : Work :=
  { st := (retirement w.st i).st, overflowed := w.overflowed, ending := w.ending,
    scanDue := w.scanDue || (retirement w.st i).scanDue }

/-- A notification event of one lease reaches the units of these ports, in this order (R127). -/
def raisedInOrder (h : Handle) (e : NoticeEvent) : List Port → Work → Work
  | [], w => w
  | p :: rest, w => raisedInOrder h e rest (w.raise p h e)

/-- At a fence start of the port the record loses its last holder with no access in flight under it, and so makes its
retirement step in the same event (R76). -/
def retiresAtFence (s : State) (p : Port) (i : RecordIndex) : Bool :=
  (s.lease i).inForce && (s.lease i).standing.isNone && (s.lease i).holds p &&
    (s.lease i).holders.all (fun h => decide (h.port = p)) && decide ((s.lease i).drainCount = 0)

/-- The event after a lease that lost its last holder entered DRAINING: over when accesses are in flight under it,
else with its retirement step made (R84). -/
def drained (s : State) (i : RecordIndex) (c : RevokeCause) : Work :=
  if (s.lease i).drainCount = 0 then retirement (s.setLease i (drainingRecord (s.lease i) c)) i
  else ⟨s.setLease i (drainingRecord (s.lease i) c), [], [], false⟩

/-- The outcome accepts the entry (R159). -/
def isAccepted : EntryOutcome → Bool
  | .accepted _ => true
  | .unused | .zeroCount | .beyondPool | .noHolder | .sharedWriter | .overlap => false

/-- The outcome skips the entry (R159). -/
def isSkipped : EntryOutcome → Bool
  | .unused | .accepted _ => false
  | .zeroCount | .beyondPool | .noHolder | .sharedWriter | .overlap => true

/-- How many entries before this one are accepted. -/
def acceptedBefore (s : State) (n : EntryNumber) : Nat :=
  ((List.finRange 16).filter (fun m => decide (m < n) && isAccepted s.report.outcomes[m])).length

/-- The state after power-on and before step 1 of its start-up (R1, R16, R21, R41, R73, R106, R112, R114, R125, R152,
R158, R162, R164, R167, R178), pool contents unknown (R161). Running profile, geometry, standing set and report are
replaced by the start-up; the values they hold while RESET# holds the part are the model's choice (log 16), and so are
the bytes that an abandoned NV operation leaves in slots and boot cell (log 9). -/
def afterPowerOn (s : State) : State :=
  { pending := s.pending, phase := .startingUp true, clock := 0, leases := Vector.replicate 256 (emptyRecord 0)
    held := []
    ports := Vector.replicate 4
      { state := .down, linkFlag := false, epoch := 0, helloPending := none, fenceCause := none, hostId := 0,
        outbound := [], commandQueue := [], accessQueue := [], refusal := none, commandTags := 0, readTags := 0,
        unit := { entries := [], inFlight := none, sequence := 0, ackTimer := none }, lineUp := false }
    waitQueue := [], commandServed := 3, accessServed := 3, hostSlots := Vector.replicate 63 none, scrubSlot := none
    scrubQueue := [], operations := [], pool := { cells := [], backgrounds := [], powerOn := s.choices }
    userSlots := s.userSlots, bootCell := s.bootCell, running := factoryProfile
    geometry := { poolGranules := 4096, initScrub := true }, standingSet := Vector.replicate 16 unusedEntry
    report := { source := .slot 0, fallback := none, outcomes := Vector.replicate 16 .unused }
    nvOperation := none, response := none, alertCauses := 0, alertMaskBits := 0xFFF, choices := s.choices + 1 }

/-- A running profile loaded, or kept, and captured: steps 2 and 3 of a start-up with its report (R158, R161). -/
def captured (s : State) (f : Profile) (source : StartUpSource) (fallback : Option FallbackReason) : State :=
  { s with
    running := f
    geometry := { poolGranules := f.poolGranules, initScrub := f.initScrub }
    standingSet := f.standing
    report := { source := source, fallback := fallback, outcomes := Vector.replicate 16 .unused } }

/-- Steps 4 to 6 of a start-up, after which readiness is waited for (R158). -/
def startedUp (s : State) (powerOn : Bool) : State :=
  { s.instantiate.rebuildScrubQueue with phase := .startingUp powerOn }

/-- What a device reset leaves of the pool (R102, R124, R161): a byte that no abandoned WRITE names, outside the granule
of an abandoned zero-fill, is as before; an abandoned WRITE that clashes with no other has stored its data or none. -/
def PoolKept (s t : State) : Prop :=
  (∀ a, s.scrubSlot ≠ some (a / 2 ^ 20) →
    (∀ o ∈ s.operations, ∀ b d, o.request = .write b d → o.carriedOut = none →
      a < b.toNat ∨ b.toNat + d.length ≤ a) →
    t.pool.readByte a = s.pool.readByte a) ∧
  (∀ o ∈ s.operations, ∀ b d, o.request = .write b d → o.carriedOut = none → s.pool.wf = true →
    (∀ k, k < d.length → s.scrubSlot ≠ some ((b.toNat + k) / 2 ^ 20)) →
    (∀ o' ∈ s.operations, o' ≠ o → o'.carriedOut = none → o'.request.clashes o.request = false) →
    (∀ k (h : k < d.length), t.pool.readByte (b.toNat + k) = d[k]) ∨
      (∀ k, k < d.length → t.pool.readByte (b.toNat + k) = s.pool.readByte (b.toNat + k)))

/-- From the offset on, the bytes hold the value in little-endian order (R179). -/
def holdsAt (l : List Byte) (offset size value : Nat) : Prop :=
  ∀ k, k < size → l[offset + k]? = some (BitVec.ofNat 8 (value / 256 ^ k))

/-- The on/off and yes/no code (section 12.1). -/
def yesNo (b : Bool) : Nat := if b then 1 else 0

/-- The code of a reason of refusal (section 12.2). -/
def refusalCode : RefusalReason → Nat
  | .notOnline => 2
  | .badLength => 3
  | .tagInUse => 4
  | .outOfPool => 5
  | .readOnly => 6
  | .revoked => 7
  | .notHolder => 8
  | .noLease => 9

/-- From the offset on, a presence byte and a deadline of 4 bytes, 0 when absent (R179). -/
def holdsDeadline (l : List Byte) (offset : Nat) (d : Option ClockValue) : Prop :=
  match d with
  | none => holdsAt l offset 5 0
  | some c => holdsAt l offset 1 1 ∧ holdsAt l (offset + 1) 4 c.toNat

/-- The revoke cause code, 0 for absent (section 12.1). -/
def revokeCauseCode : Option RevokeCause → Nat
  | none => 0
  | some .released => 1
  | some .expired => 2
  | some .forced => 3
  | some .fenced => 4

/-- The blocks that every device reset puts into their state after device reset, and what it keeps (R2, R16, R21, R41,
R73, R102, R106, R112, R114, R124, R125, R153, R161, R164). -/
def DeviceResetState (s t : State) : Prop :=
  t.clock = 0 ∧ t.waitQueue = [] ∧ t.held = [] ∧ t.hostSlots = Vector.replicate 63 none ∧ t.scrubSlot = none ∧
    t.operations = [] ∧ t.nvOperation = none ∧ t.commandServed = 3 ∧ t.accessServed = 3 ∧ t.running = s.running ∧
    t.userSlots = s.userSlots ∧ t.bootCell = s.bootCell ∧ t.alertMaskBits = s.alertMaskBits ∧ t.pending = s.pending ∧
    ∀ p, t.port p =
      { state := .down, linkFlag := false, epoch := (s.port p).epoch, helloPending := none, fenceCause := none,
        hostId := 0, outbound := [], commandQueue := [], accessQueue := [], refusal := none, commandTags := 0,
        readTags := 0, unit := { entries := [], inFlight := none, sequence := 0, ackTimer := none },
        lineUp := (s.port p).lineUp }

end Sys2Proof.Safety
end

