-- ==== Sys2Proof/Certificates/Slice0/Obligations.lean ====
section
/-! DEFINITION. The statements for the provers. Effects are written as whole next states: `{ s with … }` names every
field that changes, and so says that every other field, the pool's bytes among them, stays as it is. Where an event
may start a wait-queue scan or a fence, the next state is `Work.settle` of the event with its own effects made and what
is still due named; the statements on scans, fences and retirements say what those then do. -/

open Sys2Proof Sys2Proof.Machine Sys2Proof.Safety

/-! ## The queue of commands -/

/-- A step runs the command at the front of the queue with the queue's rest; on an empty queue the block idles. The
queue and the idling are the model's own (log 1). -/
def Obligations.StepTakesTheFront : Prop :=
  (∀ (c : Instr) (s : State) (rest : List Instr), s.pending = c :: rest →
    step s = exec c { s with pending := rest }) ∧
  (∀ s : State, s.pending = [] → step s = .next s)

/-! ## Formats (Chapter 12) -/

/-- Every packet that a host can form is read back from its bytes (section 12.2). -/
def Obligations.PacketRoundTrip : Prop :=
  ∀ x : Packet, x.wellFormed = true → decodePacket x.encode = some x

/-- Every service request is read back from the frame that carries it (R182). -/
def Obligations.ServiceFrameRoundTrip : Prop :=
  ∀ (i : Instr) (t : List Byte), encodeTransfer i = some t → (∀ u, i ≠ .badFrame u ∧ i ≠ .badCommand u) →
    decodeTransfer t = some i

/-- The checks of a request transfer, in their order (R166). Which rows carry the raw transfer is the model's choice
(log 21). -/
def Obligations.TransferChecks : Prop :=
  (∀ t : List Byte, t.head? ≠ some 0 → (t.length < 2 ∨ t.length ≠ (t.getD 1 0).toNat + 3) →
    decodeTransfer t = some (.badFrame t)) ∧
  (∀ (code : Byte) (operands : List Byte) (crc : Byte), code ≠ 0 → operands.length < 256 →
    crc ≠ crc8 (code :: BitVec.ofNat 8 operands.length :: operands) →
    decodeTransfer (code :: BitVec.ofNat 8 operands.length :: operands ++ [crc]) =
      some (.badFrame (code :: BitVec.ofNat 8 operands.length :: operands ++ [crc]))) ∧
  (∀ (code : Byte) (operands : List Byte), 0x13 < code.toNat → operands.length < 256 →
    decodeTransfer (requestFrame code operands) = some (.badCommand (requestFrame code operands))) ∧
  (∀ (code : Byte) (operands : List Byte), 1 ≤ code.toNat → code.toNat ≤ 0x13 → operands.length < 256 →
    operands.length ≠ [0, 0, 0, 2, 2, 1, 1, 1, 2, 3, 5, 0, 0, 0, 3, 6, 1, 1, 1].getD (code.toNat - 1) 0 →
    decodeTransfer (requestFrame code operands) = some (.badFrame (requestFrame code operands)))

/-- Which packets are malformed (R180). That the body length in a packet's header is the number of its body bytes is deduced
(log 17). -/
def Obligations.MalformedPackets : Prop :=
  ∀ k : RawPacket,
    decodePacket k = none ↔
      (k.kind.toNat = 0 ∨ 5 < k.kind.toNat) ∨
      (k.kind = 1 ∧ (k.body.length ≠ 8 ∨ 31 < (k.body.getD 0 0).toNat ∨ 15 < (k.body.getD 5 0).toNat)) ∨
      (k.kind = 2 ∧
        (k.body.length < 7 ∨ k.body.length ≠ 7 + ((k.body.getD 5 0).toNat + 256 * (k.body.getD 6 0).toNat) ∨
          256 < (k.body.getD 5 0).toNat + 256 * (k.body.getD 6 0).toNat ∨ 15 < (k.body.getD 4 0).toNat)) ∨
      (k.kind = 3 ∧
        (k.body.length < 2 ∨ 7 < (k.body.getD 0 0).toNat ∨
          (1 ≤ (k.body.getD 1 0).toNat ∧ (k.body.getD 1 0).toNat ≤ 7 ∧
            k.body.length ≠ 2 + [10, 5, 5, 3, 3, 1, 2].getD ((k.body.getD 1 0).toNat - 1) 0))) ∨
      (k.kind = 4 ∧ k.body.length ≠ 2) ∨ (k.kind = 5 ∧ k.body.length ≠ 4)

/-- The result layouts (section 12.3.1): the size of each, and what stands at each offset, with the codes of sections
12.1 and 12.3; the image of a profile slot (section 12.4) likewise; response frames, the ready byte and data out (R167,
R182). The bytes that the manual gives no value to, the notice deadline while the notice is absent, the granule in flight
while the engine is IDLE (log 22), the frame after NOT_READY with no response held (log 23), and what data out carries past the
frame (log 19), are not spoken of. That a LEASE_NEXT that finds none answers the found byte alone (log 25), that bits 4 to
7 of the slot validity are 0, and that tag n stands at bit n of a tag set (log 26) are the model's choices. -/
def Obligations.LayoutSizes : Prop :=
  (∀ (f : Profile) (v : List Byte), v = f.bytes →
    v.length = 245 ∧ holdsAt v 0 3 f.poolGranules ∧ holdsAt v 3 1 (yesNo f.initScrub) ∧
    holdsAt v 4 1 (yesNo f.scrubOnRetire) ∧
    (∀ (p : Port) (q : PortPolicy), q = f.ports[p] →
      holdsAt v (5 + 12 * p.val) 2 q.reachBase ∧ holdsAt v (7 + 12 * p.val) 2 q.reachLimit ∧
      holdsAt v (9 + 12 * p.val) 3 q.granuleQuota ∧ holdsAt v (12 + 12 * p.val) 1 q.leaseQuota ∧
      holdsAt v (13 + 12 * p.val) 2 q.maxTerm ∧ holdsAt v (15 + 12 * p.val) 1 (yesNo q.indefiniteOk) ∧
      holdsAt v (16 + 12 * p.val) 1 q.ackTimeout) ∧
    (∀ (n : EntryNumber) (e : StandingEntry), e = f.standing[n] →
      holdsAt v (53 + 12 * n.val) 1 (yesNo e.used) ∧ holdsAt v (54 + 12 * n.val) 2 e.base ∧
      holdsAt v (56 + 12 * n.val) 3 e.count ∧
      holdsAt v (59 + 12 * n.val) 1 (match e.kind with
        | .shared => 2
        | .common => 3) ∧
      (∀ p : Port, holdsAt v (60 + 12 * n.val + p.val) 1 (match e.rights[p] with
        | .none => 0
        | .read => 1
        | .readWrite => 2)) ∧
      holdsAt v (64 + 12 * n.val) 1 (yesNo e.scrub))) ∧
  identifyBytes = [0x01, 0x00, 0x01, 0xA0, 0x01, 0x01, 4, 0x00, 0x01, 16, 64, 32, 0x00, 0x02, 64, 8, 32] ∧
  (∀ (s : State) (i : RecordIndex) (r : LeaseRecord) (v : List Byte), r = s.lease i → v = s.recordView i →
    v.length = 68 ∧ holdsAt v 0 1 i.val ∧ holdsAt v 1 2 r.generation.toNat ∧
    holdsAt v 3 1 (match r.state with
      | .free => 0
      | .active => 1
      | .notice => 2
      | .draining => 3) ∧
    holdsAt v 4 1 (match r.kind with
      | none => 0
      | some .exclusive => 1
      | some .shared => 2
      | some .common => 3) ∧
    holdsAt v 5 1 (match r.standing with
      | none => 0xFF
      | some n => n.val) ∧
    holdsAt v 6 1 (yesNo r.written) ∧ holdsAt v 7 2 r.base ∧ holdsAt v 9 3 r.count ∧
    holdsAt v 12 1 r.holders.length ∧
    (∀ k h, k < 4 → r.holders[k]? = some h →
      holdsAt v (13 + 9 * k) 1 h.port.val ∧
      holdsAt v (14 + 9 * k) 1 (match h.right with
        | .read => 1
        | .readWrite => 2) ∧
      holdsAt v (15 + 9 * k) 2 h.term ∧ holdsDeadline v (17 + 9 * k) h.deadline) ∧
    (∀ k, k < 4 → r.holders.length ≤ k → holdsAt v (13 + 9 * k) 9 0) ∧
    holdsAt v 49 1 (match r.creator with
      | none => 0xFF
      | some p => p.val) ∧
    (r.notice = none → holdsAt v 50 1 0) ∧
    (∀ n, r.notice = some n → holdsAt v 50 1 (revokeCauseCode (some n.cause)) ∧ holdsAt v 51 4 n.deadline.toNat) ∧
    holdsAt v 55 1 (revokeCauseCode r.revokeCause) ∧ holdsAt v 56 1 r.drainCount ∧
    (r.damage = none → holdsAt v 57 6 0) ∧
    (∀ a, r.damage = some a → holdsAt v 57 1 1 ∧ holdsAt v 58 5 a.toNat) ∧
    holdsAt v 63 1 (yesNo r.retireHeld) ∧ holdsAt v 64 4 s.clock.toNat) ∧
  (∀ (s : State) (g : Nat),
    (s.nextView g = [0] ∧ ∀ i, (s.lease i).live → (s.lease i).base < g) ∨
    ∃ i others, (s.lease i).live ∧ g ≤ (s.lease i).base ∧
      (∀ j, (s.lease j).live → g ≤ (s.lease j).base →
        (s.lease i).base < (s.lease j).base ∨ ((s.lease i).base = (s.lease j).base ∧ i ≤ j)) ∧
      others = (List.finRange 256).filter
        (fun j => (s.lease j).live && decide (j ≠ i ∧ (s.lease j).base = (s.lease i).base)) ∧
      s.nextView g =
        1 :: s.recordView i ++ BitVec.ofNat 8 others.length :: others.map (fun j => BitVec.ofNat 8 j.val)) ∧
  (∀ (s : State) (v : List Byte), v = s.waitView →
    v.length = 5 + 14 * s.waitQueue.length ∧ holdsAt v 0 4 s.clock.toNat ∧ holdsAt v 4 1 s.waitQueue.length ∧
    ∀ k e, s.waitQueue[k]? = some e →
      holdsAt v (5 + 14 * k) 1 e.port.val ∧ holdsAt v (6 + 14 * k) 1 e.tag.val ∧
      holdsAt v (7 + 14 * k) 1 (match e.kind with
        | .exclusive => 1
        | .shared => 2) ∧
      holdsAt v (8 + 14 * k) 2 e.base ∧ holdsAt v (10 + 14 * k) 3 e.count ∧ holdsAt v (13 + 14 * k) 2 e.term ∧
      holdsAt v (15 + 14 * k) 4 e.deadline.toNat) ∧
  (∀ (s : State) (v : List Byte), v = s.scrubView →
    v.length = 13 ∧ holdsAt v 0 2 s.scrubQueue.length ∧ (s.scrubQueue = [] → holdsAt v 2 6 0) ∧
    (∀ e rest, s.scrubQueue = e :: rest → holdsAt v 2 1 1 ∧ holdsAt v 3 2 e.base ∧ holdsAt v 5 3 e.count) ∧
    (s.scrubSlot = none → holdsAt v 8 1 0) ∧ (∀ g, s.scrubSlot = some g → holdsAt v 8 1 1 ∧ holdsAt v 9 2 g) ∧
    holdsAt v 11 2 s.held.length) ∧
  (∀ (s : State) (p : Port) (r : PortRecord) (v : List Byte), r = s.port p → v = s.portView p →
    v.length = 48 ∧
    holdsAt v 0 1 (match r.state with
      | .down => 0
      | .linked => 1
      | .online => 2
      | .fencing => 3) ∧
    holdsAt v 1 1 (yesNo r.linkFlag) ∧ holdsAt v 2 1 r.epoch.toNat ∧ (r.helloPending = none → holdsAt v 3 5 0) ∧
    (∀ host, r.helloPending = some host → holdsAt v 3 1 1 ∧ holdsAt v 4 4 host.toNat) ∧
    holdsAt v 8 1 (match r.fenceCause with
      | none => 0
      | some .linkLost => 1
      | some .unresponsive => 2
      | some .overflow => 3
      | some .reset => 4
      | some .rehello => 5) ∧
    holdsAt v 9 4 r.hostId.toNat ∧ (r.refusal = none → holdsAt v 13 9 0) ∧
    (∀ x, r.refusal = some x →
      holdsAt v 13 1 1 ∧
      holdsAt v 14 1 (match x.kind with
        | .read => 1
        | .write => 2) ∧
      holdsAt v 15 5 x.address.toNat ∧
      holdsAt v 20 1 (refusalCode x.reason) ∧
      holdsAt v 21 1 (yesNo x.more)) ∧
    (∀ l, l = s.leases.toList.filter (fun y =>
        y.live && y.standing.isNone && y.holders.any (fun h => decide (h.port = p))) →
      holdsAt v 22 1 l.length ∧ holdsAt v 23 3 (l.map (fun y => y.count)).sum) ∧
    holdsAt v 26 1 r.commandQueue.length ∧ holdsAt v 27 1 r.accessQueue.length ∧ holdsAt v 28 2 r.outbound.length ∧
    holdsAt v 30 1 r.commandTags.toNat ∧ holdsAt v 31 4 r.readTags.toNat ∧
    (∀ l, l = s.hostSlots.toList.filterMap (fun y => y.filter (fun x => decide (x.port = p))) →
      holdsAt v 35 1 l.length ∧ holdsAt v 36 1 (l.filter (fun x => x.orphaned)).length) ∧
    holdsAt v 37 1 r.unit.entries.length ∧ (r.unit.inFlight = none → holdsAt v 38 8 0) ∧
    (∀ f, r.unit.inFlight = some f →
      holdsAt v 38 1 1 ∧ holdsAt v 39 2 f.sequence.toNat ∧
      holdsAt v 41 1 (match f.event with
        | .damaged _ => 1
        | .revokeNotice _ => 2
        | .expired => 3
        | .revoked _ => 4) ∧
      holdsAt v 42 1 f.handle.index.val ∧ holdsAt v 43 2 f.handle.generation.toNat ∧ holdsAt v 45 1 f.redeliveries) ∧
    holdsAt v 46 2 r.unit.sequence.toNat) ∧
  (∀ (s : State) (v : List Byte), v = s.statusView →
    v.length = 54 ∧ holdsAt v 0 4 s.clock.toNat ∧ holdsAt v 4 3 s.geometry.poolGranules ∧
    holdsAt v 7 1 (yesNo s.geometry.initScrub) ∧
    holdsAt v 8 1 (match s.report.source with
      | .slot n => n.val
      | .kept => 4) ∧
    holdsAt v 9 1 (match s.report.fallback with
      | none => 0
      | some .bootCellInvalid => 1
      | some .slotInvalid => 2) ∧
    (∀ n : EntryNumber,
      holdsAt v (10 + 2 * n.val) 1 (match s.report.outcomes[n] with
        | .unused => 0
        | .accepted _ => 1
        | .zeroCount => 2
        | .beyondPool => 3
        | .noHolder => 4
        | .sharedWriter => 5
        | .overlap => 6) ∧
      holdsAt v (11 + 2 * n.val) 1 (match s.report.outcomes[n] with
        | .accepted i => i.val
        | .unused | .zeroCount | .beyondPool | .noHolder | .sharedWriter | .overlap => 0)) ∧
    (∃ b, v[42]? = some b ∧ (∀ n : Fin 4, b.getLsbD n.val = (s.validImage n).isSome) ∧ b.toNat < 16) ∧
    (s.bootCell.named = none → holdsAt v 43 2 0) ∧
    (∀ n, s.bootCell.named = some n → holdsAt v 43 1 1 ∧ holdsAt v 44 1 n.val) ∧
    (s.nvOperation = none → holdsAt v 45 2 0) ∧
    (∀ k f, s.nvOperation = some (.save k f) → holdsAt v 45 1 1 ∧ holdsAt v 46 1 (k.val + 1)) ∧
    (∀ n, s.nvOperation = some (.select n) → holdsAt v 45 1 2 ∧ holdsAt v 46 1 n.val) ∧
    holdsAt v 47 2 (s.leases.toList.filter (fun r => decide (r.state ≠ .free))).length ∧
    holdsAt v 49 1 s.waitQueue.length ∧ holdsAt v 50 2 s.scrubQueue.length ∧ holdsAt v 52 2 s.held.length) ∧
  (∀ (s : State) (v : List Byte), v = s.alertView →
    v.length = 5 ∧ holdsAt v 0 2 s.alertCauses.toNat ∧ holdsAt v 2 2 s.alertMaskBits.toNat ∧
    holdsAt v 4 1 (if s.alertCauses &&& s.alertMaskBits = 0 then 0 else 1)) ∧
  (∀ (s : State) (r : ServiceResponse) (code : Nat) (b : List Byte), s.response = some r →
    code = (match r.result with
      | .ok => 0
      | .accepted => 1
      | .busy => 2
      | .badFrame => 3
      | .badCommand => 4
      | .badValue => 5
      | .stale => 6
      | .notLive => 7
      | .refusedFactory => 8
      | .invalidSlot => 9) →
    b = r.code :: BitVec.ofNat 8 code :: BitVec.ofNat 8 r.fields.length :: BitVec.ofNat 8 (r.fields.length / 256) ::
      r.fields →
    s.readTransfer = (if s.phase = .ready then 2 else 0) :: (b ++ [crc8 b])) ∧
  (∀ s : State, s.response = none →
    s.readTransfer.head? = some (if s.phase = .ready then 1 else 0) ∧
      (s.phase = .ready → s.readTransfer = [1, 0, 0, 0, 0, crc8 [0, 0, 0, 0]])) ∧
  (∀ (s : State) (t : List Byte),
    (t.head? ≠ some 0 → s.dataOut t = List.replicate t.length 0xFF) ∧
      (t.length ≤ s.readTransfer.length → s.dataOut (0 :: t) = 0xFF :: s.readTransfer.take t.length))

/-! ## Arrivals (R40, R104, R139) -/

/-- A READ or WRITE joins the access queue of an ONLINE or LINKED port, and a COMMAND the command queue of an ONLINE
port. A port's record replaced is that port's alone, and nothing else changes. -/
def Obligations.ArrivalJoinsQueue : Prop :=
  (∀ (s : State) (p : Port) (r : PortRecord), s.port p = s.ports[p] ∧
    s.setPort p r = { s with ports := (s.setPort p r).ports } ∧
    ∀ q, (s.setPort p r).port q = if q = p then r else s.port q) ∧
  ∀ (s : State) (p : Port) (k : RawPacket), (s.port p).lineUp = true → s.phase = .ready →
    (∀ t a l, decodePacket k = some (.access (.read t a l)) →
      (s.port p).state = .online ∨ (s.port p).state = .linked → (s.port p).accessQueue.length < 8 →
      exec (.readArrival p k) s =
        .next (s.setPort p { s.port p with accessQueue := (s.port p).accessQueue ++ [.read t a l] })) ∧
    (∀ a l d, decodePacket k = some (.access (.write a l d)) →
      (s.port p).state = .online ∨ (s.port p).state = .linked → (s.port p).accessQueue.length < 8 →
      exec (.writeArrival p k) s =
        .next (s.setPort p { s.port p with accessQueue := (s.port p).accessQueue ++ [.write a l d] })) ∧
    (∀ c, decodePacket k = some (.command c) → (s.port p).state = .online → (s.port p).commandQueue.length < 8 →
      exec (.commandArrival p k) s =
        .next (s.setPort p { s.port p with commandQueue := (s.port p).commandQueue ++ [c] }))

/-- What is discarded on arrival: every packet before readiness (R139; log 20), a malformed packet in every port state
(R180), an access or a COMMAND at a FENCING port (R40, R104), a COMMAND at a LINKED port (R40), and a NOTICE_ACK at either
(R131). -/
def Obligations.ArrivalDiscarded : Prop :=
  ∀ (s : State) (p : Port) (k : RawPacket), (s.port p).lineUp = true →
    (s.phase ≠ .ready ∨ decodePacket k = none →
      exec (.readArrival p k) s = .next s ∧ exec (.writeArrival p k) s = .next s ∧
        exec (.commandArrival p k) s = .next s ∧ exec (.noticeAck p k) s = .next s ∧
        exec (.hello p k) s = .next s) ∧
    (s.phase = .ready → (s.port p).state = .fencing →
      (∀ t a l, decodePacket k = some (.access (.read t a l)) → exec (.readArrival p k) s = .next s) ∧
        (∀ a l d, decodePacket k = some (.access (.write a l d)) → exec (.writeArrival p k) s = .next s)) ∧
    (s.phase = .ready → (s.port p).state = .fencing ∨ (s.port p).state = .linked →
      (∀ c, decodePacket k = some (.command c) → exec (.commandArrival p k) s = .next s) ∧
        (∀ q, decodePacket k = some (.noticeAck q) → exec (.noticeAck p k) s = .next s))

/-- A NOTICE_ACK at an ONLINE port (R131) with the delivery that follows it (R130). -/
def Obligations.NoticeAckOutcome : Prop :=
  ∀ (s : State) (p : Port) (k : RawPacket) (q : BitVec 16), (s.port p).lineUp = true → s.phase = .ready →
    decodePacket k = some (.noticeAck q) → (s.port p).state = .online →
    ((∀ f, (s.port p).unit.inFlight = some f → f.sequence ≠ q) → exec (.noticeAck p k) s = .next s) ∧
    (∀ f, (s.port p).unit.inFlight = some f → f.sequence = q → (s.port p).unit.entries = [] →
      exec (.noticeAck p k) s =
        .next (s.setPort p
          { s.port p with unit := { (s.port p).unit with inFlight := none, ackTimer := none } })) ∧
    (∀ f e rest n, (s.port p).unit.inFlight = some f → f.sequence = q → (s.port p).unit.entries = e :: rest →
      n = (if (s.port p).unit.sequence = 65535 then 1 else (s.port p).unit.sequence + 1) → Room s p 1 →
      exec (.noticeAck p k) s =
        .next (s.setPort p
          { s.port p with
            outbound := (s.port p).outbound ++ [.notice n e.handle e.event]
            unit :=
              { entries := rest, inFlight := some ⟨n, e.handle, e.event, 0⟩, sequence := n,
                ackTimer := some (s.clock + BitVec.ofNat 32 (s.policy p).ackTimeout) } }))

/-- A HELLO brings a LINKED port ONLINE with a WELCOME (R144), replaces what is pending at a FENCING port (R147), and
fences an ONLINE port with cause REHELLO and itself pending (R145). -/
def Obligations.HelloOutcome : Prop :=
  ∀ (s : State) (p : Port) (k : RawPacket) (host : HostId), (s.port p).lineUp = true → s.phase = .ready →
    decodePacket k = some (.hello host) →
    ((s.port p).state = .linked → Room s p 1 →
      exec (.hello p k) s =
        .next (s.setPort p
          { s.port p with
            epoch := (s.port p).epoch + 1
            hostId := host
            state := .online
            helloPending := none
            unit := { (s.port p).unit with sequence := 0 }
            outbound :=
              (s.port p).outbound ++
                [.welcome
                  { epoch := (s.port p).epoch + 1, port := p, poolGranules := s.geometry.poolGranules,
                    policy := s.running.ports[p] }] })) ∧
    ((s.port p).state = .fencing →
      exec (.hello p k) s = .next (s.setPort p { s.port p with helloPending := some host })) ∧
    ((s.port p).state = .online →
      exec (.hello p k) s = .next ((Work.start s).fenceStart p .rehello (some host)).settle)

/-! ## Links (R141 to R143, R145, R147) -/

/-- Link events. At a link up a DOWN port enters LINKED and a FENCING port keeps its state, and both set the link flag
(R142, R147). At a link loss a LINKED port enters DOWN with its access queue and outbound list emptied (R143), a FENCING
port loses its link flag and hello-pending (R147), and an ONLINE port is fenced with cause LINK_LOST (R145). Each sets
PORT_LINK; before readiness none is taken, and only the link itself changes (R152, R153; log 20). -/
def Obligations.LinkEventOutcome : Prop :=
  (∀ (s : State) (p : Port), (s.port p).lineUp = false →
    (s.phase ≠ .ready → exec (.linkUp p) s = .next (s.setPort p { s.port p with lineUp := true })) ∧
    (s.phase = .ready → (s.port p).state = .down →
      exec (.linkUp p) s =
        .next ((s.setPort p { s.port p with lineUp := true, linkFlag := true, state := .linked }).setAlert
          (.portLink p))) ∧
    (s.phase = .ready → (s.port p).state = .fencing →
      exec (.linkUp p) s =
        .next ((s.setPort p { s.port p with lineUp := true, linkFlag := true }).setAlert (.portLink p)))) ∧
  (∀ (s : State) (p : Port), (s.port p).lineUp = true →
    (s.phase ≠ .ready → exec (.linkLoss p) s = .next (s.setPort p { s.port p with lineUp := false })) ∧
    (s.phase = .ready → (s.port p).state = .linked →
      exec (.linkLoss p) s =
        .next ((s.setPort p
          { s.port p with
            lineUp := false, linkFlag := false, state := .down, accessQueue := [], outbound := [] }).setAlert
          (.portLink p))) ∧
    (s.phase = .ready → (s.port p).state = .fencing →
      exec (.linkLoss p) s =
        .next ((s.setPort p { s.port p with lineUp := false, linkFlag := false, helloPending := none }).setAlert
          (.portLink p))) ∧
    (s.phase = .ready → (s.port p).state = .online →
      exec (.linkLoss p) s =
        .next ((Work.start
          ((s.setPort p { s.port p with lineUp := false, linkFlag := false }).setAlert (.portLink p))).fenceStart p
          .linkLost none).settle))

/-- The outbound list (R141): a packet produced for a port joins its end; with 128 packets there it is discarded, and a
port in ONLINE is then fenced with cause OVERFLOW after the event's other effects, any other is not; the fences of several
such ports come in some order (open, log 6; the counter of choices is the model's, log 14). The head is sent and leaves
the list. What the link sends for it is the packet of sections 12.2 and 12.2.1: header, and for each kind of
packet the fields at their offsets with their codes. -/
def Obligations.OutboundListOutcome : Prop :=
  (∀ (w : Work) (p : Port) (x : OutPacket),
    (Room w.st p 1 → w.send p x = { w with st := queued w.st p [x] }) ∧
    (¬ Room w.st p 1 → (w.st.port p).state = .online →
      (w.send p x).st = w.st ∧ p ∈ (w.send p x).overflowed ∧ (w.send p x).ending = w.ending ∧
        (w.send p x).scanDue = w.scanDue) ∧
    (¬ Room w.st p 1 → (w.st.port p).state ≠ .online → w.send p x = w)) ∧
  (∀ (w : Work) (due : List Port),
    due = w.overflowed.filter (fun p => decide ((w.st.port p).state = .online)) →
    ∃ order : List Port, order.Perm due ∧
      w.fenceOverflowed =
        order.foldl (fun x p => x.fenceStart p .overflow none)
          { w with overflowed := [], st := { w.st with choices := w.st.choices + (due.length - 1) } }) ∧
  (∀ (w : Work) (p : Port), w.overflowed = [p] →
    ((w.st.port p).state = .online →
      w.fenceOverflowed = ({ w with overflowed := [] } : Work).fenceStart p .overflow none) ∧
    ((w.st.port p).state ≠ .online → w.fenceOverflowed = { w with overflowed := [] })) ∧
  (∀ (s : State) (p : Port) (x : OutPacket) (rest : List OutPacket), (s.port p).outbound = x :: rest →
    exec (.packetSent p) s = .next (s.setPort p { s.port p with outbound := rest })) ∧
  (∀ (s : State) (p : Port), (s.port p).outbound = [] → s.nextOnLink p = none) ∧
  (∀ (s : State) (p : Port) (x : OutPacket) (rest : List OutPacket), (s.port p).outbound = x :: rest →
    ∃ v, s.nextOnLink p = some v ∧ holdsAt v 1 2 (v.length - 3) ∧
      match x with
      | .readDone tag status data =>
        v.length = 5 + data.length ∧ holdsAt v 0 1 0x81 ∧ holdsAt v 3 1 tag.val ∧
        holdsAt v 4 1 (match status with
          | .ok => 0
          | .poolError => 1
          | .refused r => refusalCode r) ∧
        v.drop 5 = data
      | .writeRefused a l r =>
        v.length = 11 ∧ holdsAt v 0 1 0x82 ∧ holdsAt v 3 5 a.toNat ∧ holdsAt v 8 2 l.toNat ∧
        holdsAt v 10 1 (refusalCode r)
      | .notice q h e =>
        v.length = 14 ∧ holdsAt v 0 1 0x84 ∧ holdsAt v 3 2 q.toNat ∧ holdsAt v 5 1 h.index.val ∧
        holdsAt v 6 2 h.generation.toNat ∧
        (match e with
        | .damaged a => holdsAt v 8 1 1 ∧ holdsAt v 9 5 a.toNat
        | .revokeNotice d => holdsAt v 8 1 2 ∧ holdsAt v 9 4 d.toNat ∧ holdsAt v 13 1 0
        | .expired => holdsAt v 8 1 3 ∧ holdsAt v 9 5 0
        | .revoked c => holdsAt v 8 1 4 ∧ holdsAt v 9 1 (revokeCauseCode (some c)) ∧ holdsAt v 10 4 0)
      | .welcome w =>
        v.length = 20 ∧ holdsAt v 0 1 0x85 ∧ holdsAt v 3 1 w.epoch.toNat ∧ holdsAt v 4 1 w.port.val ∧
        holdsAt v 5 3 w.poolGranules ∧ holdsAt v 8 2 w.policy.reachBase ∧ holdsAt v 10 2 w.policy.reachLimit ∧
        holdsAt v 12 3 w.policy.granuleQuota ∧ holdsAt v 15 1 w.policy.leaseQuota ∧ holdsAt v 16 2 w.policy.maxTerm ∧
        holdsAt v 18 1 (yesNo w.policy.indefiniteOk) ∧ holdsAt v 19 1 w.policy.ackTimeout
      | .response tag answer =>
        holdsAt v 0 1 0x83 ∧ holdsAt v 3 1 tag.val ∧
        (match answer with
        | .granted h d =>
          v.length = 13 ∧ holdsAt v 4 1 0x01 ∧ holdsAt v 5 1 h.index.val ∧ holdsAt v 6 2 h.generation.toNat ∧
            holdsDeadline v 8 d
        | .joined d => v.length = 10 ∧ holdsAt v 4 1 0x02 ∧ holdsDeadline v 5 d
        | .renewed d => v.length = 10 ∧ holdsAt v 4 1 0x03 ∧ holdsDeadline v 5 d
        | .found f =>
          v.length = 18 + f.holders.length ∧ holdsAt v 4 1 0x04 ∧ holdsAt v 5 1 f.handle.index.val ∧
          holdsAt v 6 2 f.handle.generation.toNat ∧
          holdsAt v 8 1 (match f.kind with
            | none => 0
            | some .exclusive => 1
            | some .shared => 2
            | some .common => 3) ∧
          holdsAt v 9 1 (match f.state with
            | .free => 0
            | .active => 1
            | .notice => 2
            | .draining => 3) ∧
          holdsAt v 10 1 (yesNo f.written) ∧
          holdsAt v 11 1 (match f.standing with
            | none => 0xFF
            | some n => n.val) ∧
          holdsAt v 12 2 f.base ∧ holdsAt v 14 3 f.count ∧ holdsAt v 17 1 f.holders.length ∧
          ∀ k q, f.holders[k]? = some q → holdsAt v (18 + k) 1 q.val
        | .ok => v.length = 5 ∧ holdsAt v 4 1 0x00
        | .none => v.length = 5 ∧ holdsAt v 4 1 0x05
        | .scrubbing => v.length = 5 ∧ holdsAt v 4 1 0x06
        | .cancelled => v.length = 5 ∧ holdsAt v 4 1 0x07
        | .malformed => v.length = 5 ∧ holdsAt v 4 1 0x08
        | .outOfPool => v.length = 5 ∧ holdsAt v 4 1 0x09
        | .deniedTerm => v.length = 5 ∧ holdsAt v 4 1 0x0A
        | .deniedReach => v.length = 5 ∧ holdsAt v 4 1 0x0B
        | .deniedQuota => v.length = 5 ∧ holdsAt v 4 1 0x0C
        | .deniedConflict => v.length = 5 ∧ holdsAt v 4 1 0x0D
        | .deniedTimeout => v.length = 5 ∧ holdsAt v 4 1 0x0E
        | .noRecord => v.length = 5 ∧ holdsAt v 4 1 0x0F
        | .waitFull => v.length = 5 ∧ holdsAt v 4 1 0x10
        | .stale => v.length = 5 ∧ holdsAt v 4 1 0x11
        | .standing => v.length = 5 ∧ holdsAt v 4 1 0x12
        | .notShared => v.length = 5 ∧ holdsAt v 4 1 0x13
        | .notExclusive => v.length = 5 ∧ holdsAt v 4 1 0x14
        | .notHolder => v.length = 5 ∧ holdsAt v 4 1 0x15
        | .alreadyHolder => v.length = 5 ∧ holdsAt v 4 1 0x16
        | .revoking => v.length = 5 ∧ holdsAt v 4 1 0x17
        | .revoked => v.length = 5 ∧ holdsAt v 4 1 0x18
        | .notWaiting => v.length = 5 ∧ holdsAt v 4 1 0x19
        | .tagInUse => v.length = 5 ∧ holdsAt v 4 1 0x1A))

/-! ## Lease commands (Chapter 3) -/

/-- The first port after the one served last that has something waiting is served (R41, R106): every port that comes
before it in that order has an empty queue. A taking takes the head of the port's queue and makes the port the one served
last, and changes nothing else (R40, R41, R106). -/
def Obligations.RoundRobin : Prop :=
  (∀ (s : State) (p : Port) (c : CommandPacket) (rest : List CommandPacket), (s.port p).commandQueue = c :: rest →
    (∀ q : Port, (q - s.commandServed - 1).val < (p - s.commandServed - 1).val → (s.port q).commandQueue = []) →
    s.nextCommand = some (p, c)) ∧
  (∀ (s : State) (p : Port) (a : Access) (rest : List Access), (s.port p).accessQueue = a :: rest →
    (∀ q : Port, (q - s.accessServed - 1).val < (p - s.accessServed - 1).val → (s.port q).accessQueue = []) →
    s.nextAccess = some (p, a)) ∧
  (∀ (s : State) (p : Port) (c : CommandPacket) (rest : List CommandPacket), (s.port p).commandQueue = c :: rest →
    s.commandTaken p =
      { s with ports := s.ports.set p { s.port p with commandQueue := rest }, commandServed := p }) ∧
  (∀ (s : State) (p : Port) (a : Access) (rest : List Access), (s.port p).accessQueue = a :: rest →
    s.accessTaken p =
      { s with ports := s.ports.set p { s.port p with accessQueue := rest }, accessServed := p })

/-- A command whose tag is outstanding is answered TAG_IN_USE, and nothing else changes (R43, R44). With its tag free, a
command whose code names none of the seven is answered MALFORMED (R45). -/
def Obligations.TagInUseAndMalformed : Prop :=
  ∀ (s : State) (p : Port) (tag : CommandTag) (c : LeaseCommand), s.nextCommand = some (p, ⟨tag, c⟩) → Room s p 1 →
    ((s.port p).commandTags.getLsbD tag.val = true →
      exec (rowOf c) s = .next (queued (s.commandTaken p) p [.response tag .tagInUse])) ∧
    (∀ code operands, (s.port p).commandTags.getLsbD tag.val = false → c = .unknown code operands →
      exec .malformedCommand s = .next (queued (s.commandTaken p) p [.response tag .malformed]))

/-- The holdings of a port: its non-standing live leases, and the sum of their counts (R7, R26). An ACQUIRE that fails a
check gets the answer of the first check it fails, and changes nothing else (R47). -/
def Obligations.AcquireRefused : Prop :=
  (∀ (s : State) (p : Port) (l : List LeaseRecord),
    l = s.leases.toList.filter (fun r =>
      decide (r.state ≠ .free) && r.standing.isNone && r.holders.any (fun h => decide (h.port = p))) →
    s.leasesHeld p = l.length ∧ s.granulesHeld p = (l.map (fun r => r.count)).sum) ∧
  ∀ (s : State) (p : Port) (tag : CommandTag) (kind : Byte) (b : BitVec 16) (n : BitVec 24) (t m : BitVec 16)
    (a : Answer), NextWithFreeTag s p tag (.acquire kind b n t m) → Room s p 1 →
    firstFailure (acquireChecks s p kind ⟨b.toNat, n.toNat⟩ t.toNat m.toNat) = some a →
    exec .acquire s = .next (queued (s.commandTaken p) p [.response tag a])

/-- A grantable ACQUIRE takes the lowest-index FREE record, which becomes the lease of R17, and is answered GRANTED
with the new handle (R17, R34, R35, R47). A record replaced is that record alone, and nothing else changes. -/
def Obligations.AcquireGranted : Prop :=
  (∀ (s : State) (i : RecordIndex) (r : LeaseRecord), s.lease i = s.leases[i] ∧
    s.setLease i r = { s with leases := (s.setLease i r).leases } ∧
    ∀ j, (s.setLease i r).lease j = if j = i then r else s.lease j) ∧
  ∀ (s : State) (p : Port) (tag : CommandTag) (kind : Byte) (b : BitVec 16) (n : BitVec 24) (t m : BitVec 16)
    (i : RecordIndex) (d : Option ClockValue), NextWithFreeTag s p tag (.acquire kind b n t m) → Room s p 1 →
    firstFailure (acquireChecks s p kind ⟨b.toNat, n.toNat⟩ t.toNat m.toNat) = none →
    s.conflicts (if kind = 1 then .exclusive else .shared) ⟨b.toNat, n.toNat⟩ = false →
    blocked s.waitQueue ⟨b.toNat, n.toNat⟩ = false →
    (s.lease i).state = .free → (∀ j, j < i → (s.lease j).state ≠ .free) →
    d = (if t = 0 then none else some (s.clock + BitVec.ofNat 32 t.toNat)) →
    exec .acquire s =
      .next (queued
        ((s.commandTaken p).setLease i
          { generation := (s.lease i).generation + 1
            state := .active
            kind := some (if kind = 1 then .exclusive else .shared)
            standing := none
            written := decide (kind = 1)
            base := b.toNat
            count := n.toNat
            holders := [⟨p, if kind = 1 then .readWrite else .read, t.toNat, d⟩]
            creator := some p
            notice := none
            revokeCause := none
            drainCount := 0
            damage := none
            retireHeld := false })
        p [.response tag (.granted ⟨i, (s.lease i).generation + 1⟩ d)])

/-- An ACQUIRE that passes its checks and is not grantable (R34, R48): with max_wait 0 the answer of its class, with
the queue full WAIT_FULL, else a place at the end of the wait queue (R64). -/
def Obligations.AcquireWaits : Prop :=
  ∀ (s : State) (p : Port) (tag : CommandTag) (kind : Byte) (b : BitVec 16) (n : BitVec 24) (t m : BitVec 16)
    (k : AcquireKind) (stuck : Bool), NextWithFreeTag s p tag (.acquire kind b n t m) → Room s p 1 →
    firstFailure (acquireChecks s p kind ⟨b.toNat, n.toNat⟩ t.toNat m.toNat) = none →
    k = (if kind = 1 then .exclusive else .shared) →
    stuck = (s.conflicts k ⟨b.toNat, n.toNat⟩ || blocked s.waitQueue ⟨b.toNat, n.toNat⟩) →
    stuck = true ∨ (∀ i, (s.lease i).state ≠ .free) →
    (m = 0 →
      exec .acquire s =
        .next (queued (s.commandTaken p) p [.response tag (if stuck then .deniedConflict else .noRecord)])) ∧
    (m ≠ 0 → 32 ≤ s.waitQueue.length ∨ 4 ≤ (s.waitQueue.filter (fun e => decide (e.port = p))).length →
      exec .acquire s = .next (queued (s.commandTaken p) p [.response tag .waitFull])) ∧
    (m ≠ 0 → s.waitQueue.length < 32 → (s.waitQueue.filter (fun e => decide (e.port = p))).length < 4 →
      exec .acquire s =
        .next
          { (s.commandTaken p).setPort p
              { (s.commandTaken p).port p with commandTags := (s.port p).commandTags ||| BitVec.twoPow 8 tag.val } with
            waitQueue :=
              s.waitQueue ++
                [⟨p, tag, k, b.toNat, n.toNat, t.toNat, s.clock + BitVec.ofNat 32 m.toNat⟩] })

/-- A JOIN: the answer of the first check it fails, or the port appended as a READ holder and JOINED (R19, R50,
R51). -/
def Obligations.JoinOutcome : Prop :=
  ∀ (s : State) (p : Port) (tag : CommandTag) (h : Handle) (t : BitVec 16), NextWithFreeTag s p tag (.join h t) →
    Room s p 1 →
    (∀ a, firstFailure (joinChecks s p h t.toNat) = some a →
      exec .join s = .next (queued (s.commandTaken p) p [.response tag a])) ∧
    (∀ d, firstFailure (joinChecks s p h t.toNat) = none →
      d = (if t = 0 then none else some (s.clock + BitVec.ofNat 32 t.toNat)) →
      exec .join s =
        .next (queued
          ((s.commandTaken p).setLease h.index
            { s.lease h.index with holders := (s.lease h.index).holders ++ [⟨p, .read, t.toNat, d⟩] })
          p [.response tag (.joined d)]))

/-- A RENEW: the answer of the first check it fails, or the port's entry with the new term and deadline in its place
and RENEWED (R22, R50, R53). -/
def Obligations.RenewOutcome : Prop :=
  ∀ (s : State) (p : Port) (tag : CommandTag) (h : Handle) (t : BitVec 16), NextWithFreeTag s p tag (.renew h t) →
    Room s p 1 →
    (∀ a, firstFailure (renewChecks s p h t.toNat) = some a →
      exec .renew s = .next (queued (s.commandTaken p) p [.response tag a])) ∧
    (∀ d, firstFailure (renewChecks s p h t.toNat) = none →
      d = (if t = 0 then none else some (s.clock + BitVec.ofNat 32 t.toNat)) →
      exec .renew s =
        .next (queued
          ((s.commandTaken p).setLease h.index
            { s.lease h.index with
              holders :=
                (s.lease h.index).holders.map
                  (fun x => if x.port = p then { x with term := t.toNat, deadline := d } else x) })
          p [.response tag (.renewed d)]))

/-- A RELEASE: the answer of the first check it fails; or OK with the port's entry removed, the lease staying in its
state while other holders remain, and DRAINING with cause RELEASED, or FORCED from NOTICE, when the port was the last
(R50, R55, R75, R84). -/
def Obligations.ReleaseOutcome : Prop :=
  ∀ (s : State) (p : Port) (tag : CommandTag) (h : Handle) (others : List Holder),
    NextWithFreeTag s p tag (.release h) → Room s p 1 →
    others = (s.lease h.index).holders.filter (fun x => decide (x.port ≠ p)) →
    (∀ a, firstFailure (releaseChecks s p h) = some a →
      exec .release s = .next (queued (s.commandTaken p) p [.response tag a])) ∧
    (firstFailure (releaseChecks s p h) = none → others ≠ [] →
      exec .release s =
        .next (queued ((s.commandTaken p).setLease h.index { s.lease h.index with holders := others }) p
          [.response tag .ok])) ∧
    (firstFailure (releaseChecks s p h) = none → others = [] →
      exec .release s =
        .next (drained (queued (s.commandTaken p) p [.response tag .ok]) h.index .released).settle)

/-- A CONVERT: the answer of the first check it fails, or OK with the lease SHARED and its holder with READ, all else
as it was (R20, R50, R57). -/
def Obligations.ConvertOutcome : Prop :=
  ∀ (s : State) (p : Port) (tag : CommandTag) (h : Handle), NextWithFreeTag s p tag (.convert h) → Room s p 1 →
    (∀ a, firstFailure (convertChecks s p h) = some a →
      exec .convert s = .next (queued (s.commandTaken p) p [.response tag a])) ∧
    (firstFailure (convertChecks s p h) = none →
      exec .convert s =
        .next (queued
          ((s.commandTaken p).setLease h.index
            { s.lease h.index with
              kind := some .shared
              holders := (s.lease h.index).holders.map (fun x => { x with right := .read }) })
          p [.response tag .ok]))

/-- A CANCEL: NOT_WAITING when no entry of the port carries the target tag; else the entry leaves, its tag is free,
CANCELLED and OK are produced in this order, and a scan is due (R58, R71). -/
def Obligations.CancelOutcome : Prop :=
  ∀ (s : State) (p : Port) (tag : CommandTag) (target : Byte), NextWithFreeTag s p tag (.cancel target) →
    Room s p 2 →
    ((∀ e ∈ s.waitQueue, ¬ (e.port = p ∧ e.tag.val = target.toNat)) →
      exec .cancel s = .next (queued (s.commandTaken p) p [.response tag .notWaiting])) ∧
    (∀ older e younger, s.waitQueue = older ++ e :: younger → e.port = p → e.tag.val = target.toNat →
      (∀ x ∈ older, ¬ (x.port = p ∧ x.tag.val = target.toNat)) →
      exec .cancel s =
        .next (Work.settle
          ⟨{ (s.commandTaken p).setPort p
                { (s.commandTaken p).port p with
                  commandTags := (s.port p).commandTags &&& ~~~(BitVec.twoPow 8 e.tag.val)
                  outbound := (s.port p).outbound ++ [.response e.tag .cancelled, .response tag .ok] } with
              waitQueue := older ++ younger }, [], [], true⟩))

/-- A LOOKUP answers by the first case that applies, and changes nothing else (R60). -/
def Obligations.LookupOutcome : Prop :=
  ∀ (s : State) (p : Port) (tag : CommandTag) (g : BitVec 16), NextWithFreeTag s p tag (.lookup g) → Room s p 1 →
    (s.geometry.poolGranules ≤ g.toNat →
      exec .lookup s = .next (queued (s.commandTaken p) p [.response tag .outOfPool])) ∧
    (∀ i, g.toNat < s.geometry.poolGranules → (s.lease i).coversLive g.toNat = true →
      (∀ j, j < i → (s.lease j).coversLive g.toNat = false) →
      exec .lookup s =
        .next (queued (s.commandTaken p) p
          [.response tag (.found
            { handle := ⟨i, (s.lease i).generation⟩, kind := (s.lease i).kind, state := (s.lease i).state,
              written := (s.lease i).written, standing := (s.lease i).standing, base := (s.lease i).base,
              count := (s.lease i).count, holders := (s.lease i).holders.map (fun x => x.port) })])) ∧
    (g.toNat < s.geometry.poolGranules → (∀ i, (s.lease i).coversLive g.toNat = false) →
      exec .lookup s =
        .next (queued (s.commandTaken p) p
          [.response tag (if s.scrubQueue.any (fun x => x.covers g.toNat) then .scrubbing else .none)]))

/-- The arithmetic of extents (R24), blocking (R33), covering and holding (R7, R24, R92), and which proposed extents conflict
(R29, R30). -/
def Obligations.ConflictRule : Prop :=
  (∀ a b : Extent,
    (a.overlaps b = true ↔ a.base ≤ b.base + b.count - 1 ∧ b.base ≤ a.base + a.count - 1) ∧
    (1 ≤ a.count → 1 ≤ b.count →
      (a.overlaps b = true ↔
        ∃ g, (a.base ≤ g ∧ g < a.base + a.count) ∧ (b.base ≤ g ∧ g < b.base + b.count)))) ∧
  (∀ (a : Extent) (g : Nat), 1 ≤ a.count → (a.covers g = true ↔ a.base ≤ g ∧ g < a.base + a.count)) ∧
  (∀ (a : Extent) (granules : Nat), a.inPool granules = true ↔ 1 ≤ a.count ∧ a.base + a.count ≤ granules) ∧
  (∀ a : Nat, granuleOf a = a / 2 ^ 20) ∧
  (∀ (older : List WaitEntry) (e : Extent),
    blocked older e = true ↔ ∃ x ∈ older, (⟨x.base, x.count⟩ : Extent).overlaps e = true) ∧
  (∀ (s : State) (g : Nat), (∀ x ∈ s.scrubQueue, 1 ≤ x.count) →
    (s.inScrubQueue g = true ↔ ∃ x ∈ s.scrubQueue, x.base ≤ g ∧ g < x.base + x.count)) ∧
  (∀ (r : LeaseRecord) (g : Nat), 1 ≤ r.count →
    (r.coversLive g = true ↔ r.state ≠ .free ∧ r.base ≤ g ∧ g < r.base + r.count)) ∧
  (∀ (r : LeaseRecord) (e : WaitEntry) (n : StandingEntry),
    r.extent = ⟨r.base, r.count⟩ ∧ e.extent = ⟨e.base, e.count⟩ ∧ n.extent = ⟨n.base, n.count⟩ ∧
      (r.live = true ↔ r.state ≠ .free) ∧ (r.inForce = true ↔ r.state = .active ∨ r.state = .notice)) ∧
  (∀ (r : LeaseRecord) (p : Port),
    (r.holds p = true ↔ ∃ h ∈ r.holders, h.port = p) ∧ (r.holderOf p = none ↔ r.holds p = false) ∧
    ∀ before h after, r.holders = before ++ h :: after → h.port = p → (∀ x ∈ before, x.port ≠ p) →
      r.holderOf p = some h) ∧
  ∀ (s : State) (e : Extent),
    (s.conflicts .exclusive e = true ↔
      (∃ i, (s.lease i).state ≠ .free ∧ (s.lease i).extent.overlaps e = true) ∨
        ∃ x ∈ s.scrubQueue, x.overlaps e = true) ∧
    (s.conflicts .shared e = true ↔
      (∃ i, (s.lease i).state ≠ .free ∧ (s.lease i).extent.overlaps e = true ∧
        ((s.lease i).kind = some .exclusive ∨ (s.lease i).kind = some .common ∨ (s.lease i).written = true ∨
          (s.lease i).state = .draining)) ∨
        ∃ x ∈ s.scrubQueue, x.overlaps e = true)

/-- What a scan does with one entry (R66, where R68 would have one over quota stay, log 13): out of reach or over quota it
leaves with its answer and its tag free; with
an older entry, a conflict or no FREE record in its way it stays; else it leaves with a grant of the lowest-index FREE
record. An entry that leaves is no longer older than those behind it, one that stays is. A scan takes the entries of the
wait queue so, oldest first, and leaves those that stay (R65). How an event then settles: with nothing due its state
stands; with a scan alone due the scan is made; with a fence end alone due it is made; and in general the fences of
overflowed ports come first, then one scan where one is due, then the fence ends, and the fences of ports that the scan
overflows come with a scan of their own before those ends (R65, R128, R141, R146, R148; the order is deduced, log 18). -/
def Obligations.ScanOfOneEntry : Prop :=
  (∀ (w : Work) (older rest : List WaitEntry) (e : WaitEntry) (r : PortRecord) (q : PortPolicy),
    Room w.st e.port 1 → q = w.st.policy e.port →
    r = { w.st.port e.port with
      commandTags := (w.st.port e.port).commandTags &&& ~~~(BitVec.twoPow 8 e.tag.val) } →
    (reachFails q e.extent = true →
      w.scanEntries older (e :: rest) =
        ({ w with
          st := w.st.setPort e.port
            { r with outbound := r.outbound ++ [.response e.tag .deniedReach] } } : Work).scanEntries older rest) ∧
    (reachFails q e.extent = false → quotaFails w.st e.port q e.count = true →
      w.scanEntries older (e :: rest) =
        ({ w with
          st := w.st.setPort e.port
            { r with outbound := r.outbound ++ [.response e.tag .deniedQuota] } } : Work).scanEntries older rest) ∧
    (reachFails q e.extent = false → quotaFails w.st e.port q e.count = false →
      (blocked older e.extent = true ∨ w.st.conflicts e.kind e.extent = true ∨ ∀ i, (w.st.lease i).state ≠ .free) →
      w.scanEntries older (e :: rest) = w.scanEntries (older ++ [e]) rest) ∧
    (∀ i d, reachFails q e.extent = false → quotaFails w.st e.port q e.count = false →
      blocked older e.extent = false → w.st.conflicts e.kind e.extent = false →
      (w.st.lease i).state = .free → (∀ j, j < i → (w.st.lease j).state ≠ .free) →
      d = (if e.term = 0 then none else some (w.st.clock + BitVec.ofNat 32 e.term)) →
      w.scanEntries older (e :: rest) =
        ({ w with
          st := (w.st.setLease i
            { generation := (w.st.lease i).generation + 1
              state := .active
              kind := some (match e.kind with
                | .exclusive => .exclusive
                | .shared => .shared)
              standing := none
              written := decide (e.kind = .exclusive)
              base := e.base
              count := e.count
              holders :=
                [⟨e.port, match e.kind with
                  | .exclusive => .readWrite
                  | .shared => .read, e.term, d⟩]
              creator := some e.port
              notice := none
              revokeCause := none
              drainCount := 0
              damage := none
              retireHeld := false }).setPort e.port
            { r with
              outbound :=
                r.outbound ++ [.response e.tag (.granted ⟨i, (w.st.lease i).generation + 1⟩ d)] } } : Work).scanEntries
          older rest)) ∧
  (∀ (w : Work) (older : List WaitEntry), w.scanEntries older [] = (older, w)) ∧
  (∀ (w v : Work) (stay : List WaitEntry), w.scanEntries [] w.st.waitQueue = (stay, v) →
    w.scan = { v with st := { v.st with waitQueue := stay }, scanDue := false }) ∧
  (∀ (w : Work) (s : State) (f : State → State),
    Work.start s = ⟨s, [], [], false⟩ ∧ w.onState f = { w with st := f w.st }) ∧
  (∀ s : State, (Work.start s).settle = s) ∧
  (∀ (s : State) (v : Work), v = (⟨s, [], [], true⟩ : Work).scan → v.overflowed = [] →
    (⟨s, [], [], true⟩ : Work).settle = v.st) ∧
  (∀ (s : State) (p : Port) (v : Work), v = (Work.start s).fenceEnd p → v.overflowed = [] →
    (⟨s, [], [p], false⟩ : Work).settle = v.st) ∧
  (∀ (w f v : Work), f = w.fenceOverflowed → v = (if f.scanDue then f.scan else f) →
    (v.overflowed = [] →
      ∀ e, e = v.ending.foldl Work.fenceEnd { v with ending := [] } → e.overflowed = [] → w.settle = e.st) ∧
    (v.overflowed ≠ [] →
      ∀ f' v' e, f' = v.fenceOverflowed → v' = (if f'.scanDue then f'.scan else f') → v'.overflowed = [] →
        e = v'.ending.foldl Work.fenceEnd { v' with ending := [] } → e.overflowed = [] → w.settle = e.st))

/-- A second scan made at once changes nothing, where every entry that stayed still passes its port's quotas. R68
states it without that premise; a grant to a port in the first scan can make an older entry of the same port fail its
quota in the second (log 13). -/
def Obligations.SecondScanChangesNothing : Prop :=
  ∀ (s : State) (w : Work), w = (Work.start s).scan →
    (∀ e ∈ w.st.waitQueue, w.st.quotaAllows e.port e.count = true) → (Work.start w.st).scan = Work.start w.st

/-! ## Deadlines (R23, R69, R82, R132) -/

/-- A wait deadline is reached: the entry leaves with DENIED_TIMEOUT, its tag is free, and a scan is due (R69). -/
def Obligations.WaitDeadlineOutcome : Prop :=
  ∀ (s : State) (older younger : List WaitEntry) (e : WaitEntry), s.waitQueue = older ++ e :: younger →
    (∀ x ∈ older, ¬ (x.port = e.port ∧ x.tag = e.tag)) → (s.clock - e.deadline).toNat < 2 ^ 31 → Room s e.port 1 →
    exec (.waitDeadlineExpiry e.port e.tag) s =
      .next (Work.settle
        ⟨{ s.setPort e.port
              { s.port e.port with
                commandTags := (s.port e.port).commandTags &&& ~~~(BitVec.twoPow 8 e.tag.val)
                outbound := (s.port e.port).outbound ++ [.response e.tag .deniedTimeout] } with
            waitQueue := older ++ younger }, [], [], true⟩)

/-- A holder expires: its entry leaves, the lease drains with cause EXPIRED, or FORCED from NOTICE, when it was the
last, and EXPIRED is raised for its port (R23). -/
def Obligations.HolderExpiryOutcome : Prop :=
  ∀ (s : State) (i : RecordIndex) (h : Holder) (d : ClockValue) (others : List Holder),
    (s.lease i).state = .active ∨ (s.lease i).state = .notice → (s.lease i).holderOf h.port = some h →
    h.deadline = some d → (s.clock - d).toNat < 2 ^ 31 →
    others = (s.lease i).holders.filter (fun x => decide (x.port ≠ h.port)) →
    (others ≠ [] →
      exec (.holderExpiry i h.port) s =
        .next ((Work.start (s.setLease i { s.lease i with holders := others })).raise h.port
          ⟨i, (s.lease i).generation⟩ .expired).settle) ∧
    (others = [] →
      exec (.holderExpiry i h.port) s =
        .next ((drained s i .expired).raise h.port ⟨i, (s.lease i).generation⟩ .expired).settle)

/-- A notice deadline is reached: every holder is removed, REVOKED with cause FORCED is raised for each, once and in
holder order, and the lease drains with cause FORCED, with its retirement step when no access is in flight under it (R78,
R82, R84, R86). Every other record and every port that held nothing in the lease stays as it was. -/
def Obligations.NoticeDeadlineOutcome : Prop :=
  (∀ (s : State) (i : RecordIndex) (n : Notice), (s.lease i).state = .notice → (s.lease i).notice = some n →
    (s.clock - n.deadline).toNat < 2 ^ 31 →
    exec (.noticeDeadline i) s = .next ((Work.start s).revokeAll i).settle) ∧
  (∀ (w v : Work) (i : RecordIndex), (w.st.lease i).state = .active ∨ (w.st.lease i).state = .notice →
    v = raisedInOrder ⟨i, (w.st.lease i).generation⟩ (.revoked .forced)
      ((w.st.lease i).holders.map (fun h => h.port)) w →
    ((w.st.lease i).drainCount ≠ 0 →
      w.revokeAll i = { v with st := v.st.setLease i (drainingRecord (w.st.lease i) .forced) }) ∧
    ((w.st.lease i).drainCount = 0 →
      w.revokeAll i = afterRetirement { v with st := v.st.setLease i (drainingRecord (w.st.lease i) .forced) } i)) ∧
  (∀ (w : Work) (i : RecordIndex), (w.st.lease i).state = .active ∨ (w.st.lease i).state = .notice →
    ((w.st.lease i).drainCount ≠ 0 → (w.revokeAll i).st.lease i = drainingRecord (w.st.lease i) .forced) ∧
    (∀ j, j ≠ i → (w.revokeAll i).st.lease j = w.st.lease j) ∧
    (∀ p, (w.st.lease i).holds p = false → (w.revokeAll i).st.port p = w.st.port p) ∧
    (w.revokeAll i).st.waitQueue = w.st.waitQueue ∧ (w.revokeAll i).st.hostSlots = w.st.hostSlots ∧
    (w.revokeAll i).st.pool = w.st.pool ∧ (w.revokeAll i).st.clock = w.st.clock)

/-- The ack timer expires: the notification is sent again with its count raised and the timer restarted, or the port is
fenced with cause UNRESPONSIVE after the third redelivery (R132, R133). -/
def Obligations.AckTimerOutcome : Prop :=
  ∀ (s : State) (p : Port) (d : ClockValue) (f : InFlight), (s.port p).unit.ackTimer = some d →
    (s.port p).unit.inFlight = some f → (s.clock - d).toNat < 2 ^ 31 →
    (f.redeliveries < 3 → Room s p 1 →
      exec (.ackTimerExpiry p) s =
        .next (s.setPort p
          { s.port p with
            outbound := (s.port p).outbound ++ [.notice f.sequence f.handle f.event]
            unit :=
              { (s.port p).unit with
                inFlight := some { f with redeliveries := f.redeliveries + 1 }
                ackTimer := some (s.clock + BitVec.ofNat 32 (s.policy p).ackTimeout) } })) ∧
    (3 ≤ f.redeliveries →
      exec (.ackTimerExpiry p) s = .next ((Work.start s).fenceStart p .unresponsive none).settle)

/-- The rank of each event kind (R126), and an event that reaches a notification unit (R127, R128): discarded at a port that is not ONLINE; in place of the pending
entry of its handle when its rank is equal or above; appended; delivered at once when nothing is in flight or pending;
or, at a full set, discarded with the port due to be fenced. -/
def Obligations.NotificationEvent : Prop :=
  (∀ (a : PoolAddress) (d : ClockValue) (c : RevokeCause),
    (NoticeEvent.damaged a).rank = 1 ∧ (NoticeEvent.revokeNotice d).rank = 2 ∧ NoticeEvent.expired.rank = 3 ∧
      (NoticeEvent.revoked c).rank = 3) ∧
  ∀ (w : Work) (p : Port) (h : Handle) (e : NoticeEvent),
    ((w.st.port p).state ≠ .online → w.raise p h e = w) ∧
    (∀ before x after, (w.st.port p).state = .online → (w.st.port p).unit.entries = before ++ x :: after →
      x.handle = h → (∀ y ∈ before ++ after, y.handle ≠ h) →
      w.raise p h e =
        { w with
          st := w.st.setPort p
            { w.st.port p with
              unit :=
                { (w.st.port p).unit with
                  entries := before ++ (if x.event.rank ≤ e.rank then ⟨h, e⟩ else x) :: after } } }) ∧
    (∀ f, (w.st.port p).state = .online → (∀ y ∈ (w.st.port p).unit.entries, y.handle ≠ h) →
      (w.st.port p).unit.entries.length < 64 → (w.st.port p).unit.inFlight = some f →
      w.raise p h e =
        { w with
          st := w.st.setPort p
            { w.st.port p with
              unit := { (w.st.port p).unit with entries := (w.st.port p).unit.entries ++ [⟨h, e⟩] } } }) ∧
    (∀ n, (w.st.port p).state = .online → (w.st.port p).unit.entries = [] → (w.st.port p).unit.inFlight = none →
      n = (if (w.st.port p).unit.sequence = 65535 then 1 else (w.st.port p).unit.sequence + 1) → Room w.st p 1 →
      w.raise p h e =
        { w with
          st := w.st.setPort p
            { w.st.port p with
              outbound := (w.st.port p).outbound ++ [.notice n h e]
              unit :=
                { entries := [], inFlight := some ⟨n, h, e, 0⟩, sequence := n,
                  ackTimer := some (w.st.clock + BitVec.ofNat 32 (w.st.policy p).ackTimeout) } } }) ∧
    ((w.st.port p).state = .online → (∀ y ∈ (w.st.port p).unit.entries, y.handle ≠ h) →
      64 ≤ (w.st.port p).unit.entries.length →
      (w.raise p h e).st = w.st ∧ p ∈ (w.raise p h e).overflowed)

/-! ## Accesses (Chapter 7) -/

/-- A refused access is answered with the reason of the first check that decides, recorded in the refusal record, and
changes nothing else (R37, R108, R110, R121). -/
def Obligations.AccessRefused : Prop :=
  ∀ (s : State) (p : Port) (x : RefusalReason), (∃ n, s.slot n = none) → Room s p 1 →
    (∀ tag a l, s.nextAccess = some (p, .read tag a l) →
      firstFailure (accessChecks s p (some tag) a.toNat l.toNat) = some x ∨
        (firstFailure (accessChecks s p (some tag) a.toNat l.toNat) = none ∧
          (∀ i, ¬ Admits s i p .read (a.toNat / 2 ^ 20)) ∧ LookupReason s p .read (a.toNat / 2 ^ 20) x) →
      exec .readTaking s =
        .next (queued
          ((s.accessTaken p).setPort p
            { (s.accessTaken p).port p with refusal := refusalAfter s p .read a x })
          p [.readDone tag (.refused x) []])) ∧
    (∀ a l d, s.nextAccess = some (p, .write a l d) →
      firstFailure (accessChecks s p none a.toNat l.toNat) = some x ∨
        (firstFailure (accessChecks s p none a.toNat l.toNat) = none ∧
          (∀ i, ¬ Admits s i p .write (a.toNat / 2 ^ 20)) ∧ LookupReason s p .write (a.toNat / 2 ^ 20) x) →
      exec .writeTaking s =
        .next (queued
          ((s.accessTaken p).setPort p
            { (s.accessTaken p).port p with refusal := refusalAfter s p .write a x })
          p [.writeRefused a l x]))

/-- An admitted access takes the lowest-numbered free host slot, raises the drain count of the lowest-index lease that
admits it, adds a READ's tag, and is issued to the memory controller (R37, R107, R111, R114). A host slot replaced is that
slot alone, and nothing else changes. -/
def Obligations.AccessAdmitted : Prop :=
  (∀ (s : State) (n : HostSlotNumber) (x : Option HostSlot), s.slot n = s.hostSlots[n] ∧
    s.setSlot n x = { s with hostSlots := (s.setSlot n x).hostSlots } ∧
    ∀ m, (s.setSlot n x).slot m = if m = n then x else s.slot m) ∧
  ∀ (s : State) (p : Port) (n : HostSlotNumber) (i : RecordIndex), s.slot n = none →
    (∀ m, m < n → s.slot m ≠ none) →
    (∀ tag a l, s.nextAccess = some (p, .read tag a l) →
      firstFailure (accessChecks s p (some tag) a.toNat l.toNat) = none →
      Admits s i p .read (a.toNat / 2 ^ 20) → (∀ j, j < i → ¬ Admits s j p .read (a.toNat / 2 ^ 20)) →
      exec .readTaking s =
        .next
          { (((s.accessTaken p).setSlot n
                (some ⟨p, (s.port p).epoch, .read tag, a, l.toNat, i, false⟩)).setLease i
                { s.lease i with drainCount := (s.lease i).drainCount + 1 }).setPort p
              { (s.accessTaken p).port p with readTags := (s.port p).readTags ||| BitVec.twoPow 32 tag.val } with
            operations := s.operations ++ [⟨n, .read a l.toNat, none⟩] }) ∧
    (∀ a l d, s.nextAccess = some (p, .write a l d) →
      firstFailure (accessChecks s p none a.toNat l.toNat) = none →
      Admits s i p .write (a.toNat / 2 ^ 20) → (∀ j, j < i → ¬ Admits s j p .write (a.toNat / 2 ^ 20)) →
      exec .writeTaking s =
        .next
          { ((s.accessTaken p).setSlot n
                (some ⟨p, (s.port p).epoch, .write, a, l.toNat, i, false⟩)).setLease i
                { s.lease i with drainCount := (s.lease i).drainCount + 1 } with
            operations := s.operations ++ [⟨n, .write a d, none⟩] })

/-- The completion of an access in a slot that is not orphaned: a READ is answered with the bytes found, its tag and
the slot are free, and the drain count falls by 1, with the retirement step when the lease is DRAINING and drained
(R86, R117). -/
def Obligations.CompletionOutcome : Prop :=
  ∀ (s t u : State) (n : HostSlotNumber) (x : HostSlot), s.slot n = some x → x.orphaned = false →
    t = s.carriedOut n →
    u =
      { (t.setSlot n none).setLease x.lease
          { s.lease x.lease with drainCount := (s.lease x.lease).drainCount - 1 } with
        operations := t.operations.filter (fun o => decide (o.slot ≠ n)) } →
    (∀ tag, x.kind = .read tag → Room s x.port 1 →
      ((s.lease x.lease).state ≠ .draining ∨ (s.lease x.lease).drainCount - 1 ≠ 0 →
        exec (.readCompletion n false) s =
          .next (u.setPort x.port
            { s.port x.port with
              readTags := (s.port x.port).readTags &&& ~~~(BitVec.twoPow 32 tag.val)
              outbound := (s.port x.port).outbound ++ [.readDone tag .ok (t.foundBytes n x)] })) ∧
      ((s.lease x.lease).state = .draining → (s.lease x.lease).drainCount - 1 = 0 →
        exec (.readCompletion n false) s =
          .next (retirement
            (u.setPort x.port
              { s.port x.port with
                readTags := (s.port x.port).readTags &&& ~~~(BitVec.twoPow 32 tag.val)
                outbound := (s.port x.port).outbound ++ [.readDone tag .ok (t.foundBytes n x)] })
            x.lease).settle)) ∧
    (x.kind = .write →
      ((s.lease x.lease).state ≠ .draining ∨ (s.lease x.lease).drainCount - 1 ≠ 0 →
        exec (.writeCompletion n) s = .next u) ∧
      ((s.lease x.lease).state = .draining → (s.lease x.lease).drainCount - 1 = 0 →
        exec (.writeCompletion n) s = .next (retirement u x.lease).settle))

/-- The completion of an access in an orphaned slot produces no packet and touches no tag set; a DRAINING lease that it
leaves without access in flight makes its retirement step; the last slot of the port's old epoch ends the fence (R86,
R117, R122, R123). A READ in such a slot that returns a pool error still has the effects of R119. -/
def Obligations.OrphanedCompletionOutcome : Prop :=
  (∀ (s t u : State) (n : HostSlotNumber) (x : HostSlot) (c : Instr), s.slot n = some x → x.orphaned = true →
    c = (match x.kind with
      | .read _ => .readCompletion n false
      | .write => .writeCompletion n) →
    t = s.carriedOut n →
    u =
      { (t.setSlot n none).setLease x.lease
          { s.lease x.lease with drainCount := (s.lease x.lease).drainCount - 1 } with
        operations := t.operations.filter (fun o => decide (o.slot ≠ n)) } →
    ((s.lease x.lease).state ≠ .draining ∨ (s.lease x.lease).drainCount - 1 ≠ 0 →
      ((∃ m y, m ≠ n ∧ s.slot m = some y ∧ y.port = x.port ∧ y.epoch = x.epoch) → exec c s = .next u) ∧
      ((∀ m y, m ≠ n → s.slot m = some y → ¬ (y.port = x.port ∧ y.epoch = x.epoch)) →
        exec c s = .next (Work.settle ⟨u, [], [x.port], false⟩))) ∧
    ((s.lease x.lease).state = .draining → (s.lease x.lease).drainCount - 1 = 0 →
      ((∃ m y, m ≠ n ∧ s.slot m = some y ∧ y.port = x.port ∧ y.epoch = x.epoch) →
        exec c s = .next (retirement u x.lease).settle) ∧
      ((∀ m y, m ≠ n → s.slot m = some y → ¬ (y.port = x.port ∧ y.epoch = x.epoch)) →
        exec c s = .next ({ retirement u x.lease with ending := [x.port] } : Work).settle))) ∧
  (∀ (s : State) (n : HostSlotNumber) (x : HostSlot) (tag : ReadTag), s.slot n = some x → x.kind = .read tag →
    x.orphaned = true →
    exec (.readCompletion n true) s =
      .next (((((Work.start
        (s.setLease x.lease
          { s.lease x.lease with
            damage := match (s.lease x.lease).damage with
              | none => some x.address
              | some a => some a })).raiseHolders x.lease (.damaged x.address)).onState
        (fun t => t.setAlert .damage)).completeSlot n x).settle))

/-- A READ that returns a pool error keeps the first failing address in the damage field, raises DAMAGED with its own
address for each holder, sets the DAMAGE alert, and is answered POOL_ERROR (R117, R119). An event for the holders of a
lease is raised once for each, in holder order (R77, R79, R119); and steps 3 to 5 of a completion free the slot, lower the
drain count, make the retirement step of a DRAINING lease left without access, and end the fence at the last orphaned
slot of the port's old epoch (R117). -/
def Obligations.PoolErrorOutcome : Prop :=
  (∀ (s : State) (n : HostSlotNumber) (x : HostSlot) (tag : ReadTag), s.slot n = some x → x.kind = .read tag →
    x.orphaned = false →
    exec (.readCompletion n true) s =
      .next (((((((Work.start
        (s.setLease x.lease
          { s.lease x.lease with
            damage := match (s.lease x.lease).damage with
              | none => some x.address
              | some a => some a })).raiseHolders x.lease (.damaged x.address)).onState
        (fun t => t.setAlert .damage)).onState
        (fun t => t.setPort x.port
          { t.port x.port with
            readTags := (t.port x.port).readTags &&& ~~~(BitVec.twoPow 32 tag.val) })).send x.port
        (.readDone tag .poolError [])).completeSlot n x).settle)) ∧
  (∀ (w : Work) (i : RecordIndex) (e : NoticeEvent),
    w.raiseHolders i e =
      raisedInOrder ⟨i, (w.st.lease i).generation⟩ e ((w.st.lease i).holders.map (fun h => h.port)) w) ∧
  (∀ (w v : Work) (u : State) (n : HostSlotNumber) (x : HostSlot),
    u =
      { (w.st.setSlot n none).setLease x.lease
          { w.st.lease x.lease with drainCount := (w.st.lease x.lease).drainCount - 1 } with
        operations := w.st.operations.filter (fun o => decide (o.slot ≠ n)) } →
    v = (if (w.st.lease x.lease).state = .draining ∧ (w.st.lease x.lease).drainCount - 1 = 0 then
        afterRetirement { w with st := u } x.lease
      else { w with st := u }) →
    (x.orphaned = false ∨ (∃ m y, m ≠ n ∧ w.st.slot m = some y ∧ y.port = x.port ∧ y.epoch = x.epoch) →
      w.completeSlot n x = v) ∧
    (x.orphaned = true → (∀ m y, m ≠ n → w.st.slot m = some y → ¬ (y.port = x.port ∧ y.epoch = x.epoch)) →
      w.completeSlot n x = { v with ending := if x.port ∈ v.ending then v.ending else v.ending ++ [x.port] }))

/-- The pool's contents (R96, R118). Two operations clash when they touch the same bytes and one of them is a WRITE. A WRITE
carried out while no other operation in flight clashes with it stores its
data at its bytes and leaves every other byte; a READ so carried out finds the bytes the pool holds and changes none; a
zero-filled granule reads as zeros and every byte of the other granules as before. The form in which the pool is stored
is the model's (log 7). -/
def Obligations.PoolContents : Prop :=
  (∀ (a b : PoolAddress) (l m : Nat) (d e : List Byte),
    (PoolRequest.read a l).clashes (.read b m) = false ∧
    ((PoolRequest.write a d).clashes (.read b m) = true ↔ a.toNat < b.toNat + m ∧ b.toNat < a.toNat + d.length) ∧
    ((PoolRequest.read a l).clashes (.write b e) = true ↔ a.toNat < b.toNat + e.length ∧ b.toNat < a.toNat + l) ∧
    ((PoolRequest.write a d).clashes (.write b e) = true ↔
      a.toNat < b.toNat + e.length ∧ b.toNat < a.toNat + d.length)) ∧
  (∀ (m : Pool) (a l : Nat), m.readBytes a l = (List.range l).map (fun k => m.readByte (a + k))) ∧
  (∀ (s : State) (n : HostSlotNumber) (o : PoolOperation) (before after : List PoolOperation),
    s.operations = before ++ o :: after → o.slot = n → (∀ x ∈ before, x.slot ≠ n) →
    s.operationOf n = some o ∧
      (∀ (x : HostSlot) (d : List Byte), o.carriedOut = some d → s.carriedOut n = s ∧ s.foundBytes n x = d)) ∧
  (∀ (s : State) (n : HostSlotNumber) (a : PoolAddress) (d : List Byte), s.pool.wf = true →
    s.operationOf n = some ⟨n, .write a d, none⟩ →
    (∀ o ∈ s.operations, o.slot ≠ n → o.carriedOut = none → o.request.clashes (.write a d) = false) →
    (∀ k (h : k < d.length), (s.carriedOut n).pool.readByte (a.toNat + k) = d[k]) ∧
    (∀ b, b < a.toNat ∨ a.toNat + d.length ≤ b → (s.carriedOut n).pool.readByte b = s.pool.readByte b)) ∧
  (∀ (s : State) (n : HostSlotNumber) (x : HostSlot) (a : PoolAddress) (l : Nat),
    s.operationOf n = some ⟨n, .read a l, none⟩ →
    (∀ o ∈ s.operations, o.slot ≠ n → o.carriedOut = none → o.request.clashes (.read a l) = false) →
    (s.carriedOut n).pool = s.pool ∧ (s.carriedOut n).foundBytes n x = s.pool.readBytes a.toNat l) ∧
  (∀ (m : Pool) (g a : Nat), m.wf = true →
    (m.refill g .zeroed).readByte a = if a / 2 ^ 20 = g then 0 else m.readByte a)

/-! ## Scrub engine (Chapter 6) -/

/-- A zero-fill completes (R96, R97): slot 63 is freed and the granule holds zeros; the head shrinks, or leaves and
gives its place to the head held record (R89); one scan is made; then the next zero-fill is issued. -/
def Obligations.ZeroFillOutcome : Prop :=
  ∀ (s : State) (g : Nat) (e : Extent) (rest : List Extent) (m : Pool), s.scrubSlot = some g →
    s.scrubQueue = e :: rest → m = s.pool.refill g .zeroed →
    (1 < e.count →
      exec .zeroFillCompletion s =
        .next (((⟨{ s with scrubSlot := none, pool := m, scrubQueue := ⟨e.base + 1, e.count - 1⟩ :: rest }, [], [],
          true⟩ : Work).scan.onState (fun t => { t with scrubSlot := some (e.base + 1) })).settle)) ∧
    (e.count ≤ 1 → s.held = [] →
      exec .zeroFillCompletion s =
        .next (((⟨{ s with scrubSlot := none, pool := m, scrubQueue := rest }, [], [], true⟩ : Work).scan.onState
          (fun t => { t with scrubSlot := rest.head?.map Extent.base })).settle)) ∧
    (∀ i held f more, e.count ≤ 1 → s.held = i :: held → rest = f :: more →
      exec .zeroFillCompletion s =
        .next (((⟨{ s.setLease i (emptyRecord (s.lease i).generation) with
              scrubSlot := none, pool := m, held := held,
              scrubQueue := rest ++ [⟨(s.lease i).base, (s.lease i).count⟩] }, [], [], true⟩ : Work).scan.onState
          (fun t => { t with scrubSlot := some f.base })).settle))

/-! ## Fences (Chapter 9) -/

/-- A fence start (R146): the port's own fields (R135, R146), the wait queue without its entries (R72), its slots
orphaned (R122), and the lease table's part (R76): a lease of other holders too stays in its state, one left without
holder is DRAINING with cause FENCED, or FORCED from NOTICE, and every other record is as it was. A lease so left with
no access in flight retires: it is FREE where no scrub is needed; those that need one join the scrub queue in some order,
each record FREE, while the queue holds fewer than 512 extents, and the rest join the held list (R86 to R88; the order is
open, log 6). No other port changes, PORT_FENCED is set, a scan is due, and the fence ends in the same event when the
port holds no slot. Nothing else of the state changes but the model's counter of choices. -/
def Obligations.FenceStartOutcome : Prop :=
  ∀ (w : Work) (p : Port) (c : FenceCause) (hello : Option HostId) (v : Work), v = w.fenceStart p c hello →
    v.st.port p =
      { w.st.port p with
        state := .fencing, fenceCause := some c, helloPending := hello, outbound := [], commandQueue := [],
        accessQueue := [], commandTags := 0, readTags := 0,
        unit := { (w.st.port p).unit with entries := [], inFlight := none, ackTimer := none } } ∧
    (∀ q, q ≠ p → v.st.port q = w.st.port q) ∧
    v.st.waitQueue = w.st.waitQueue.filter (fun e => decide (e.port ≠ p)) ∧
    (∀ n, v.st.slot n =
      match w.st.slot n with
      | none => none
      | some x => if x.port = p then some { x with orphaned := true } else some x) ∧
    (∀ i, (w.st.lease i).inForce = false ∨ (w.st.lease i).standing.isSome = true ∨ (w.st.lease i).holds p = false →
      v.st.lease i = w.st.lease i) ∧
    (∀ i, (w.st.lease i).inForce = true → (w.st.lease i).standing = none → (w.st.lease i).holds p = true →
      ((w.st.lease i).holders.any (fun h => decide (h.port ≠ p)) = true →
        v.st.lease i =
          { w.st.lease i with holders := (w.st.lease i).holders.filter (fun h => decide (h.port ≠ p)) }) ∧
      ((w.st.lease i).holders.all (fun h => decide (h.port = p)) = true → (w.st.lease i).drainCount ≠ 0 →
        v.st.lease i = drainingRecord (w.st.lease i) .fenced)) ∧
    (∀ i, retiresAtFence w.st p i = true → scrubNeeded w.st (w.st.lease i) = false →
      v.st.lease i = emptyRecord (w.st.lease i).generation) ∧
    (∃ order : List RecordIndex,
      order.Perm ((List.finRange 256).filter
        (fun i => retiresAtFence w.st p i && scrubNeeded w.st (w.st.lease i))) ∧
      (∀ i ∈ order.take (512 - w.st.scrubQueue.length),
        v.st.lease i = emptyRecord (w.st.lease i).generation) ∧
      (∀ i ∈ order.drop (512 - w.st.scrubQueue.length),
        v.st.lease i = { drainingRecord (w.st.lease i) .fenced with retireHeld := true }) ∧
      v.st.scrubQueue =
        w.st.scrubQueue ++ (order.take (512 - w.st.scrubQueue.length)).map (fun i => (w.st.lease i).extent) ∧
      v.st.held = w.st.held ++ order.drop (512 - w.st.scrubQueue.length) ∧
      v.st.scrubSlot =
        (if w.st.scrubQueue = [] ∧ w.st.phase = .ready ∧ w.st.scrubSlot = none then
          order.head?.map (fun i => (w.st.lease i).base)
        else w.st.scrubSlot)) ∧
    v.st.alertCauses = w.st.alertCauses ||| BitVec.twoPow 12 p.val ∧ v.st.pool = w.st.pool ∧
    v.st.clock = w.st.clock ∧
    v.st =
      { w.st with
        leases := v.st.leases, held := v.st.held, ports := v.st.ports, waitQueue := v.st.waitQueue
        hostSlots := v.st.hostSlots, scrubSlot := v.st.scrubSlot, scrubQueue := v.st.scrubQueue
        alertCauses := v.st.alertCauses, choices := v.st.choices } ∧
    v.scanDue = true ∧ v.overflowed = w.overflowed ∧
    ((∀ n x, w.st.slot n = some x → x.port ≠ p) → p ∈ v.ending) ∧
    ((∃ n x, w.st.slot n = some x ∧ x.port = p) → v.ending = w.ending)

/-- A fence end (R148): DOWN with the link flag down, ONLINE with a WELCOME with a HELLO pending, else LINKED. -/
def Obligations.FenceEndOutcome : Prop :=
  ∀ (w : Work) (p : Port), (w.st.port p).state = .fencing →
    ((w.st.port p).linkFlag = false →
      w.fenceEnd p = { w with st := w.st.setPort p { w.st.port p with state := .down } }) ∧
    ((w.st.port p).linkFlag = true → (w.st.port p).helloPending = none →
      w.fenceEnd p = { w with st := w.st.setPort p { w.st.port p with state := .linked } }) ∧
    (∀ host, (w.st.port p).linkFlag = true → (w.st.port p).helloPending = some host → Room w.st p 1 →
      w.fenceEnd p =
        { w with
          st := w.st.setPort p
            { w.st.port p with
              epoch := (w.st.port p).epoch + 1
              hostId := host
              state := .online
              helloPending := none
              unit := { (w.st.port p).unit with sequence := 0 }
              outbound :=
                (w.st.port p).outbound ++
                  [.welcome
                    { epoch := (w.st.port p).epoch + 1, port := p, poolGranules := w.st.geometry.poolGranules,
                      policy := w.st.running.ports[p] }] } })

/-! ## Service requests (Chapter 11) -/

/-- A request that only reads answers OK with its result fields, or BAD_VALUE for an operand out of range, and changes
nothing but the response buffer (R74, R103, R168 to R171, R174, R177). The response buffer then holds that response in
place of any other (R167). -/
def Obligations.ReadingRequests : Prop :=
  (∀ (s : State) (code : Byte) (r : ServiceResult) (fields : List Byte),
    s.putResponse code r fields = { s with response := some ⟨code, r, fields⟩ }) ∧
  ∀ s : State, s.phase = .ready →
    exec .identify s = .next (s.putResponse 0x01 .ok identifyBytes) ∧
    exec .status s = .next (s.putResponse 0x02 .ok s.statusView) ∧
    exec .alertRead s = .next (s.putResponse 0x03 .ok s.alertView) ∧
    exec .waitRead s = .next (s.putResponse 0x0C .ok s.waitView) ∧
    exec .scrubRead s = .next (s.putResponse 0x0D .ok s.scrubView) ∧
    (∀ (b : Byte) (p : Port), b.toNat = p.val →
      exec (.portStatus b) s = .next (s.putResponse 0x06 .ok (s.portView p))) ∧
    (∀ b : Byte, 3 < b.toNat → exec (.portStatus b) s = .next (s.putResponse 0x06 .badValue [])) ∧
    (∀ (b : BitVec 16) (i : RecordIndex), b.toNat = i.val →
      exec (.leaseRead b) s = .next (s.putResponse 0x09 .ok (s.recordView i))) ∧
    (∀ b : BitVec 16, 255 < b.toNat → exec (.leaseRead b) s = .next (s.putResponse 0x09 .badValue [])) ∧
    (∀ g : BitVec 24, g.toNat ≤ 65535 →
      exec (.leaseNext g) s = .next (s.putResponse 0x0A .ok (s.nextView g.toNat))) ∧
    (∀ g : BitVec 24, 65535 < g.toNat → exec (.leaseNext g) s = .next (s.putResponse 0x0A .badValue [])) ∧
    (∀ x f, ProfileField.ofSelector x = some f →
      exec (.fieldRead x) s = .next (s.putResponse 0x0F .ok (leBytes 3 (s.running.fieldValue f)))) ∧
    (∀ x, ProfileField.ofSelector x = none → exec (.fieldRead x) s = .next (s.putResponse 0x0F .badValue []))

/-- A transfer whose frame is wrong or whose code names no request is answered so, with the code byte as received,
and changes nothing else; before readiness no transfer is taken (R160, R166; log 20). The rows that carry a raw transfer
are the model's reading of the table (log 21). -/
def Obligations.BadTransfers : Prop :=
  ∀ (s : State) (t : List Byte),
    (s.phase = .ready → decodeTransfer t = some (.badFrame t) →
      exec (.badFrame t) s = .next (s.putResponse (t.headD 0) .badFrame [])) ∧
    (s.phase = .ready → decodeTransfer t = some (.badCommand t) →
      exec (.badCommand t) s = .next (s.putResponse (t.headD 0) .badCommand [])) ∧
    (∀ i, s.phase ≠ .ready → decodeTransfer t = some i → exec i s = .next s)

/-- The bit of each cause in cause set and mask (section 12.3), the alert requests and the level of ALERT# (R176, R177), with
REFUSAL_CLEAR (R170). -/
def Obligations.AlertsAndRefusalClear : Prop :=
  ∀ s : State,
    (s.alertAsserted = true ↔
      ∃ c : AlertCause, s.alertCauses.getLsbD c.bit = true ∧ s.alertMaskBits.getLsbD c.bit = true) ∧
    (∀ (p : Port) (c : AlertCause) (n : Nat),
      (c, n) ∈ [(.portFenced p, p.val), (.portLink p, 4 + p.val), (.damage, 8), (.profileFault, 9), (.nvDone, 10),
        (.nvFailed, 11)] →
      c.bit = n ∧ s.hasAlert c = s.alertCauses.getLsbD n ∧
        s.setAlert c = { s with alertCauses := s.alertCauses ||| BitVec.twoPow 12 n }) ∧
    (∀ c d : AlertCause, (s.setAlert c).hasAlert d = (decide (d = c) || s.hasAlert d)) ∧
    (∀ c : BitVec 16, s.phase = .ready → c.toNat < 2 ^ 12 →
      exec (.alertClear c) s =
        .next ({ s with alertCauses := s.alertCauses &&& ~~~(c.setWidth 12) }.putResponse 0x04 .ok [])) ∧
    (∀ c : BitVec 16, s.phase = .ready → c.toNat < 2 ^ 12 →
      exec (.alertMask c) s = .next ({ s with alertMaskBits := c.setWidth 12 }.putResponse 0x05 .ok [])) ∧
    (∀ c : BitVec 16, s.phase = .ready → 2 ^ 12 ≤ c.toNat →
      exec (.alertClear c) s = .next (s.putResponse 0x04 .badValue []) ∧
        exec (.alertMask c) s = .next (s.putResponse 0x05 .badValue [])) ∧
    (∀ (b : Byte) (p : Port), s.phase = .ready → b.toNat = p.val →
      exec (.refusalClear b) s =
        .next ((s.setPort p { s.port p with refusal := none }).putResponse 0x07 .ok [])) ∧
    (∀ b : Byte, s.phase = .ready → 3 < b.toNat →
      exec (.refusalClear b) s = .next (s.putResponse 0x07 .badValue []))

/-- PORT_RESET (R149): an ONLINE port is fenced with cause RESET, any other stays as it is; both are answered OK, and a
port out of range BAD_VALUE. -/
def Obligations.PortResetOutcome : Prop :=
  ∀ (s : State) (b : Byte), s.phase = .ready →
    (∀ p : Port, b.toNat = p.val → (s.port p).state = .online →
      exec (.portReset b) s =
        .next (((Work.start s).fenceStart p .reset none).onState (fun t => t.putResponse 0x08 .ok [])).settle) ∧
    (∀ p : Port, b.toNat = p.val → (s.port p).state ≠ .online →
      exec (.portReset b) s = .next (s.putResponse 0x08 .ok [])) ∧
    (3 < b.toNat → exec (.portReset b) s = .next (s.putResponse 0x08 .badValue []))

/-- FORCE_REVOKE (R77 to R79, R172): BAD_VALUE, STALE and NOT_LIVE change nothing; a grace above 0 gives notice, or
brings the notice deadline forward, or changes nothing when it is not earlier; grace 0 takes every holder at once. -/
def Obligations.ForceRevokeOutcome : Prop :=
  ∀ (s : State) (h : Handle) (grace : BitVec 16) (r : LeaseRecord) (d : ClockValue), s.phase = .ready →
    r = s.lease h.index → d = s.clock + BitVec.ofNat 32 grace.toNat →
    (10000 < grace.toNat → exec (.forceRevoke h grace) s = .next (s.putResponse 0x0B .badValue [])) ∧
    (grace.toNat ≤ 10000 → r.state = .free ∨ r.generation ≠ h.generation →
      exec (.forceRevoke h grace) s = .next (s.putResponse 0x0B .stale [])) ∧
    (grace.toNat ≤ 10000 → r.state = .draining → r.generation = h.generation →
      exec (.forceRevoke h grace) s = .next (s.putResponse 0x0B .notLive [])) ∧
    (grace = 0 → r.state = .active ∨ r.state = .notice → r.generation = h.generation →
      exec (.forceRevoke h grace) s =
        .next (((Work.start s).revokeAll h.index).onState (fun t => t.putResponse 0x0B .ok [])).settle) ∧
    (grace.toNat ≤ 10000 → grace ≠ 0 → r.generation = h.generation →
      r.state = .active ∨ (∃ n, r.state = .notice ∧ r.notice = some n ∧ n.deadline ≠ d ∧
        (n.deadline - d).toNat < 2 ^ 31) →
      exec (.forceRevoke h grace) s =
        .next (((Work.start
          (s.setLease h.index
            { r with state := .notice, notice := some ⟨.forced, d⟩, revokeCause := some .forced })).raiseHolders h.index
          (.revokeNotice d)).onState (fun t => t.putResponse 0x0B .ok [])).settle) ∧
    (∀ n, grace.toNat ≤ 10000 → grace ≠ 0 → r.generation = h.generation → r.state = .notice → r.notice = some n →
      n.deadline = d ∨ 2 ^ 31 ≤ (n.deadline - d).toNat →
      exec (.forceRevoke h grace) s = .next (s.putResponse 0x0B .ok []))

/-- FIELD_WRITE (R174): a selector or a value out of range is answered BAD_VALUE and changes nothing; else the field is
replaced in the running profile, and a scan is due for the four fields of reach and quota alone (R65). -/
def Obligations.FieldWriteOutcome : Prop :=
  ∀ (s : State) (x : Selector) (v : BitVec 24), s.phase = .ready →
    (ProfileField.ofSelector x = none → exec (.fieldWrite x v) s = .next (s.putResponse 0x10 .badValue [])) ∧
    (∀ f, ProfileField.ofSelector x = some f → s.running.writeField f v.toNat = none →
      exec (.fieldWrite x v) s = .next (s.putResponse 0x10 .badValue [])) ∧
    (∀ f q, ProfileField.ofSelector x = some f → s.running.writeField f v.toNat = some q →
      exec (.fieldWrite x v) s =
        .next (Work.settle
          ⟨{ s with running := q }.putResponse 0x10 .ok [], [], [],
            decide (4 ≤ x.code.toNat ∧ x.code.toNat ≤ 7)⟩))

/-- Which field a selector names, by the codes of section 12.3, a byte that the field does not take ignored, and which
value of the profile each field is, in the codes of section 12.1 (R174). A field written reads as the value written,
every other field as before, and a value is refused exactly outside the field's range (R154, R174). A port's policy is
that of the running profile (R157). -/
def Obligations.FieldWriteReadsBack : Prop :=
  (∀ x : Selector,
    ProfileField.ofSelector x = none ↔
      x.code.toNat = 0 ∨ 0x10 < x.code.toNat ∨ (0x04 ≤ x.code.toNat ∧ x.code.toNat ≤ 0x0A ∧ 3 < x.port.toNat) ∨
        (0x0B ≤ x.code.toNat ∧ 15 < x.entry.toNat) ∨ (x.code.toNat = 0x0F ∧ 3 < x.port.toNat)) ∧
  (∀ (f : Profile) (x : Selector) (p : Port) (n : EntryNumber) (y : ProfileField) (v : Nat),
    (x.code.toNat, y, v) ∈
      [(0x01, .poolGranules, f.poolGranules), (0x02, .initScrub, yesNo f.initScrub),
        (0x03, .scrubOnRetire, yesNo f.scrubOnRetire)] ∨
    (x.port.toNat = p.val ∧ (x.code.toNat, y, v) ∈
      [(0x04, .reachBase p, f.ports[p].reachBase), (0x05, .reachLimit p, f.ports[p].reachLimit),
        (0x06, .granuleQuota p, f.ports[p].granuleQuota), (0x07, .leaseQuota p, f.ports[p].leaseQuota),
        (0x08, .maxTerm p, f.ports[p].maxTerm), (0x09, .indefiniteOk p, yesNo f.ports[p].indefiniteOk),
        (0x0A, .ackTimeout p, f.ports[p].ackTimeout)]) ∨
    (x.entry.toNat = n.val ∧ (x.code.toNat, y, v) ∈
      [(0x0B, .entryUsed n, yesNo f.standing[n].used), (0x0C, .entryBase n, f.standing[n].base),
        (0x0D, .entryCount n, f.standing[n].count),
        (0x0E, .entryKind n, match f.standing[n].kind with
          | .shared => 2
          | .common => 3),
        (0x10, .entryScrub n, yesNo f.standing[n].scrub)]) ∨
    (x.entry.toNat = n.val ∧ x.port.toNat = p.val ∧ (x.code.toNat, y, v) ∈
      [(0x0F, .entryRight n p, match f.standing[n].rights[p] with
        | .none => 0
        | .read => 1
        | .readWrite => 2)]) →
    ProfileField.ofSelector x = some y ∧ f.fieldValue y = v) ∧
  (∀ (s : State) (p : Port), s.policy p = s.running.ports[p]) ∧
  (∀ (f q : Profile) (x y : ProfileField) (v : Nat), f.writeField x v = some q →
    q.fieldValue y = if y = x then v else f.fieldValue y) ∧
  (∀ (f : Profile) (x : ProfileField) (v : Nat),
    f.writeField x v = none ↔
      ¬ (match x with
        | .poolGranules => 1 ≤ v ∧ v ≤ 65536
        | .initScrub | .scrubOnRetire | .indefiniteOk _ | .entryUsed _ | .entryScrub _ => v ≤ 1
        | .reachBase _ | .reachLimit _ | .entryBase _ => v ≤ 65535
        | .granuleQuota _ | .entryCount _ => v ≤ 65536
        | .leaseQuota _ => v ≤ 64
        | .maxTerm _ => 1 ≤ v ∧ v ≤ 65535
        | .ackTimeout _ => 1 ≤ v ∧ v ≤ 100
        | .entryKind _ => v = 2 ∨ v = 3
        | .entryRight _ _ => v ≤ 2))

/-! ## Profile store (Chapter 10) -/

/-- The profile of the factory slot (R156; what else its unused entries hold is the model's choice, log 8), the validity of
slots (R154) and of the boot cell (R155, section 12.4). PROFILE_SAVE, BOOT_SELECT and PROFILE_LOAD: their checks in order
(R162), what an accepted one changes (R162) and
what a load does (R165). That a slot whose save was accepted keeps its old image and check value, without the valid
mark, is the model's choice (log 9). -/
def Obligations.ProfileStoreRequests : Prop :=
  (factoryProfile.poolGranules = 4096 ∧ factoryProfile.initScrub = true ∧ factoryProfile.scrubOnRetire = true ∧
    (∀ p : Port, factoryProfile.ports[p] =
      { reachBase := 0, reachLimit := 4095, granuleQuota := 1024, leaseQuota := 16, maxTerm := 10000,
        indefiniteOk := false, ackTimeout := 5 }) ∧
    ∀ n : EntryNumber, factoryProfile.standing[n].used = false) ∧
  (∀ f : Profile, f.inRange = true ↔
    1 ≤ f.poolGranules ∧ f.poolGranules ≤ 65536 ∧
      (∀ (p : Port) (q : PortPolicy), q = f.ports[p] →
        q.reachBase ≤ 65535 ∧ q.reachLimit ≤ 65535 ∧ q.granuleQuota ≤ 65536 ∧ q.leaseQuota ≤ 64 ∧ 1 ≤ q.maxTerm ∧
          q.maxTerm ≤ 65535 ∧ 1 ≤ q.ackTimeout ∧ q.ackTimeout ≤ 100) ∧
      ∀ n : EntryNumber, f.standing[n].base ≤ 65535 ∧ f.standing[n].count ≤ 65536) ∧
  (∀ s : State, s.validImage 0 = some factoryProfile ∧
    ∀ (k : Fin 3) (x : ProfileSlot), x = s.userSlots[k] →
      s.validImage ⟨k.val + 1, by omega⟩ =
        if x.validMark = true ∧ x.check = crc32 x.image.bytes ∧ x.image.inRange = true then some x.image else none) ∧
  (∀ (c : BootCell) (n : Fin 4), c.named = some n ↔ c.number.toNat = n.val ∧ c.complement = ~~~c.number) ∧
  ∀ (s : State) (b : Byte), s.phase = .ready →
    (3 < b.toNat →
      exec (.profileSave b) s = .next (s.putResponse 0x11 .badValue []) ∧
        exec (.profileLoad b) s = .next (s.putResponse 0x12 .badValue []) ∧
        exec (.bootSelect b) s = .next (s.putResponse 0x13 .badValue [])) ∧
    (b = 0 → exec (.profileSave b) s = .next (s.putResponse 0x11 .refusedFactory [])) ∧
    (b.toNat ≤ 3 → s.nvOperation.isSome = true →
      (b ≠ 0 → exec (.profileSave b) s = .next (s.putResponse 0x11 .busy [])) ∧
        exec (.profileLoad b) s = .next (s.putResponse 0x12 .busy []) ∧
        exec (.bootSelect b) s = .next (s.putResponse 0x13 .busy [])) ∧
    (∀ k : Fin 3, b.toNat = k.val + 1 → s.nvOperation = none →
      exec (.profileSave b) s =
        .next ({ s with
          userSlots := s.userSlots.set k { s.userSlots[k] with validMark := false }
          nvOperation := some (.save k s.running) }.putResponse 0x11 .accepted [])) ∧
    (∀ n : Fin 4, b.toNat = n.val → s.nvOperation = none →
      (∃ c : BootCell, c.named = none ∧
        exec (.bootSelect b) s =
          .next ({ s with bootCell := c, nvOperation := some (.select n) }.putResponse 0x13 .accepted [])) ∧
      (s.validImage n = none → exec (.profileLoad b) s = .next (s.putResponse 0x12 .invalidSlot [])) ∧
      (∀ f, s.validImage n = some f →
        exec (.profileLoad b) s =
          .next (Work.settle ⟨{ s with running := f }.putResponse 0x12 .ok [], [], [], true⟩)))

/-- The completion of an NV operation (R163): with the read-back agreeing, a saved slot is valid and holds the copy
taken at the acceptance, and a boot cell names the slot selected; with it disagreeing, the target stays invalid. That its
bytes then stay as they were is the model's choice (log 9). Nothing else changes, the running profile, the active
geometry and the captured standing set among it. -/
def Obligations.NvCompletion : Prop :=
  (∀ s : State, s.nvOperation.isSome = true →
    exec (.nvOperationComplete false) s = .next ({ s with nvOperation := none }.setAlert .nvFailed)) ∧
  (∀ (s : State) (k : Fin 3) (f : Profile), s.nvOperation = some (.save k f) → f.inRange = true →
    ∃ t, exec (.nvOperationComplete true) s = .next t ∧ t.validImage ⟨k.val + 1, by omega⟩ = some f ∧
      (∀ n : Fin 4, n.val ≠ k.val + 1 → t.validImage n = s.validImage n) ∧ t.bootCell = s.bootCell ∧
      t.running = s.running ∧ t.geometry = s.geometry ∧ t.standingSet = s.standingSet ∧
      t =
        { s with
          userSlots := t.userSlots, nvOperation := none
          alertCauses := s.alertCauses ||| BitVec.twoPow 12 10 }) ∧
  (∀ (s : State) (n : Fin 4), s.nvOperation = some (.select n) →
    ∃ t, exec (.nvOperationComplete true) s = .next t ∧ t.bootCell.named = some n ∧ t.userSlots = s.userSlots ∧
      t.running = s.running ∧ t.geometry = s.geometry ∧ t.standingSet = s.standingSet ∧
      t =
        { s with
          bootCell := t.bootCell, nvOperation := none
          alertCauses := s.alertCauses ||| BitVec.twoPow 12 10 })

/-! ## Resets and start-up (Chapter 10) -/

/-- A FREE record has every field but its generation at its empty value (R2). Power-on reset with RESET# not asserted (R152, R158, R164, R178): the nonvolatile slots and the boot cell are kept,
the profile of the valid slot that a valid boot cell names is loaded, and else the factory profile with PROFILE_FAULT
set; every block is in its state after power-on; and the start-up goes on with the validation, the standing leases and
the scrub queue of the statements on those, from the profile loaded. With RESET# asserted the start-up is held (R161).
That the link itself starts down is deduced (log 11). The bytes that an abandoned NV operation leaves in slots and boot
cell (log 9), the phases between a reset and readiness, and what profile, geometry and report hold while the part is held
(log 16) are the model's choices. -/
def Obligations.PowerOnOutcome : Prop :=
  (∀ g : BitVec 16, emptyRecord g =
    { generation := g, state := .free, kind := none, standing := none, written := false, base := 0, count := 0,
      holders := [], creator := none, notice := none, revokeCause := none, drainCount := 0, damage := none,
      retireHeld := false }) ∧
  ∀ s : State,
    (s.phase = .powerOnHeld ∨ s.phase = .resetHeld →
      exec .powerOnReset s = .next { afterPowerOn s with phase := .powerOnHeld }) ∧
    (s.phase ≠ .powerOnHeld → s.phase ≠ .resetHeld →
      (∀ n f, s.bootCell.named = some n → s.validImage n = some f →
        exec .powerOnReset s = .next (startedUp (captured (afterPowerOn s) f (.slot n) none) true)) ∧
      (s.bootCell.named = none →
        exec .powerOnReset s =
          .next (startedUp (captured ((afterPowerOn s).setAlert .profileFault) factoryProfile (.slot 0)
            (some .bootCellInvalid)) true)) ∧
      (∀ n, s.bootCell.named = some n → s.validImage n = none →
        exec .powerOnReset s =
          .next (startedUp (captured ((afterPowerOn s).setAlert .profileFault) factoryProfile (.slot 0)
            (some .slotInvalid)) true)) ∧
      ∃ t, exec .powerOnReset s = .next t ∧ t.phase = .startingUp true ∧ t.clock = 0 ∧ t.waitQueue = [] ∧
        t.held = [] ∧ t.hostSlots = Vector.replicate 63 none ∧ t.scrubSlot = none ∧ t.operations = [] ∧
        t.nvOperation = none ∧ t.response = none ∧ t.alertMaskBits = 0xFFF ∧ t.userSlots = s.userSlots ∧
        t.bootCell = s.bootCell ∧ t.commandServed = 3 ∧ t.accessServed = 3 ∧ t.pending = s.pending ∧
        (∀ p, t.port p =
          { state := .down, linkFlag := false, epoch := 0, helloPending := none, fenceCause := none, hostId := 0,
            outbound := [], commandQueue := [], accessQueue := [], refusal := none, commandTags := 0, readTags := 0,
            unit := { entries := [], inFlight := none, sequence := 0, ackTimer := none }, lineUp := false }) ∧
        (∀ i, (t.lease i).standing = none → t.lease i = emptyRecord 0) ∧
        (∀ i, (t.lease i).standing.isSome → (t.lease i).generation = 1 ∧ (t.lease i).state = .active) ∧
        t.geometry = ⟨t.running.poolGranules, t.running.initScrub⟩ ∧ t.standingSet = t.running.standing ∧
        (∀ c, c ≠ .profileFault → t.hasAlert c = false))

/-- A device reset (R161): the running profile, the generations, the epochs, the mask, the nonvolatile slots and the
boot cell are kept, the pool too but for what the operations abandoned may have left (R102, R124); every block is in its
state after device reset; DEVICE_RESET keeps its OK and goes on to start up, RESET# empties the response buffer and holds
the part (R173), and its release starts the part up (R161), from the choice of the slot when a power-on was held (R158).
A start-up is the validation, the standing leases and the scrub queue of the statements on those, from the profile
captured. That the link itself keeps its state through a device reset is deduced (log 11). That the ports are DOWN from a
device reset to readiness (log 10), that the geometry keeps its value while RESET# is held (log 16), and the bytes that
an abandoned NV operation leaves (log 9) are the model's choices. -/
def Obligations.DeviceResetOutcome : Prop :=
  (∀ s : State, s.phase = .ready →
    ∃ b t, exec .deviceReset s = .next t ∧ t = startedUp (captured b s.running .kept none) false ∧
      DeviceResetState s b ∧ PoolKept s b ∧ b.response = some ⟨0x0E, .ok, []⟩ ∧ b.alertCauses = 0 ∧
      (∀ i, b.lease i = emptyRecord (s.lease i).generation) ∧
      t.phase = .startingUp false ∧ t.response = some ⟨0x0E, .ok, []⟩ ∧
      DeviceResetState s t ∧ PoolKept s t ∧ t.geometry = ⟨s.running.poolGranules, s.running.initScrub⟩ ∧
      t.standingSet = s.running.standing ∧ t.report.source = .kept ∧ t.report.fallback = none ∧
      (∀ c, c ≠ .profileFault → t.hasAlert c = false) ∧
      (∀ i, t.lease i = emptyRecord (s.lease i).generation ∨
        ((t.lease i).standing.isSome ∧ (t.lease i).state = .active ∧
          (t.lease i).generation = (s.lease i).generation + 1))) ∧
  (∀ s : State, s.phase ≠ .powerOnHeld → s.phase ≠ .resetHeld →
    ∃ t, exec .resetAssert s = .next t ∧ t.phase = .resetHeld ∧ t.response = none ∧ DeviceResetState s t ∧
      PoolKept s t ∧ t.geometry = s.geometry ∧ t.alertCauses = 0 ∧ t.scrubQueue = [] ∧
      (∀ i, t.lease i = emptyRecord (s.lease i).generation)) ∧
  (∀ s : State, s.phase = .resetHeld →
    exec .resetRelease s = .next (startedUp (captured s s.running .kept none) false) ∧
    ∃ t, exec .resetRelease s = .next t ∧ t.phase = .startingUp false ∧ t.running = s.running ∧
      t.response = s.response ∧ t.ports = s.ports ∧ t.pool = s.pool ∧
      t.geometry = ⟨s.running.poolGranules, s.running.initScrub⟩ ∧ t.standingSet = s.running.standing ∧
      t.report.source = .kept) ∧
  (∀ s : State, s.phase = .powerOnHeld →
    (∀ n f, s.bootCell.named = some n → s.validImage n = some f →
      exec .resetRelease s = .next (startedUp (captured s f (.slot n) none) true)) ∧
    (s.bootCell.named = none →
      exec .resetRelease s =
        .next (startedUp (captured (s.setAlert .profileFault) factoryProfile (.slot 0) (some .bootCellInvalid)) true)) ∧
    (∀ n, s.bootCell.named = some n → s.validImage n = none →
      exec .resetRelease s =
        .next (startedUp (captured (s.setAlert .profileFault) factoryProfile (.slot 0) (some .slotInvalid)) true)) ∧
    ∃ t, exec .resetRelease s = .next t ∧ t.phase = .startingUp true ∧ t.ports = s.ports)

/-- The rebuilt scrub queue (R101): with INIT_SCRUB on it holds exactly the granules of the pool that no live lease
covers, in disjoint extents; with INIT_SCRUB off it is empty. -/
def Obligations.ScrubQueueRebuilt : Prop :=
  ∀ s t : State, t = s.rebuildScrubQueue →
    (∀ i, (s.lease i).live → 1 ≤ (s.lease i).count ∧ (s.lease i).base + (s.lease i).count ≤ s.geometry.poolGranules) →
    (s.geometry.initScrub = false → t.scrubQueue = []) ∧
    (s.geometry.initScrub = true →
      (∀ g, t.inScrubQueue g = true ↔
        g < s.geometry.poolGranules ∧ ∀ i, (s.lease i).coversLive g = false) ∧
      t.scrubQueue.Pairwise (fun x y => x.base + x.count < y.base) ∧ (∀ x ∈ t.scrubQueue, 1 ≤ x.count))

/-- What validation and instantiation make of a table with no live record (R18, R159, R160). The outcome of each entry
is that of the first of the five tests it fails, UNUSED when it is not used, and else ACCEPTED into the record whose
index is the number of entries accepted before it, which is then the lowest-index FREE record. That record becomes the
lease of R18, and every other record stays as it was. PROFILE_FAULT is set exactly when an entry is skipped. Nothing else
changes. -/
def Obligations.StandingLeasesInstantiated : Prop :=
  ∀ s t : State, t = s.instantiate → (∀ i, (s.lease i).state = .free) →
    (∀ (n : EntryNumber) (e : StandingEntry), e = s.standingSet[n] →
      t.report.outcomes[n] =
        if e.used = false then .unused
        else if e.count = 0 then .zeroCount
        else if s.geometry.poolGranules < e.base + e.count then .beyondPool
        else if ∀ p : Port, e.rights[p] = .none then .noHolder
        else if e.kind = .shared ∧ ∃ p : Port, e.rights[p] = .readWrite then .sharedWriter
        else if ∃ m : EntryNumber, m < n ∧ isAccepted t.report.outcomes[m] = true ∧
            s.standingSet[m].extent.overlaps e.extent = true then .overlap
        else .accepted (Fin.ofNat 256 (acceptedBefore t n))) ∧
    (∀ (n : EntryNumber) (i : RecordIndex) (e : StandingEntry), e = s.standingSet[n] →
      t.report.outcomes[n] = .accepted i →
      t.lease i =
        { generation := (s.lease i).generation + 1
          state := .active
          kind := some (match e.kind with
            | .common => .common
            | .shared => .shared)
          standing := some n
          written := decide (e.kind = .common)
          base := e.base
          count := e.count
          holders := (List.finRange 4).filterMap (fun p =>
            match e.rights[p] with
            | .none => none
            | .read => some ⟨p, .read, 0, none⟩
            | .readWrite => some ⟨p, .readWrite, 0, none⟩)
          creator := none
          notice := none
          revokeCause := none
          drainCount := 0
          damage := none
          retireHeld := false }) ∧
    (∀ i, (∀ n : EntryNumber, t.report.outcomes[n] ≠ .accepted i) → t.lease i = s.lease i) ∧
    (∀ c : AlertCause, t.hasAlert c = true ↔
      s.hasAlert c = true ∨ (c = .profileFault ∧ ∃ n : EntryNumber, isSkipped t.report.outcomes[n] = true)) ∧
    t =
      { s with
        leases := t.leases, alertCauses := t.alertCauses
        report := { s.report with outcomes := t.report.outcomes } }

/-- The part becomes ready (R160): the first zero-fill is issued, and each port is LINKED or DOWN by its link, with
PORT_LINK set after a power-on alone (R152, R153). From readiness on, and not before, a millisecond adds 1 to the lease
clock, which wraps (R21). -/
def Obligations.ReadinessAndLeaseClock : Prop :=
  (∀ s : State,
    (s.phase = .ready → exec .leaseClockTick s = .next { s with clock := s.clock + 1 }) ∧
    (s.phase ≠ .ready → exec .leaseClockTick s = .next s)) ∧
  ∀ (s : State) (powerOn : Bool), s.phase = .startingUp powerOn →
    ∃ t, exec .becomeReady s = .next t ∧ t.phase = .ready ∧
      t.scrubSlot = s.scrubQueue.head?.map Extent.base ∧
      (∀ p, t.port p =
        if (s.port p).lineUp then { s.port p with state := .linked, linkFlag := true }
        else { s.port p with state := .down, linkFlag := false }) ∧
      (∀ c : AlertCause, t.hasAlert c =
        (s.hasAlert c || (powerOn && match c with
          | .portLink p => (s.port p).lineUp
          | .portFenced _ | .damage | .profileFault | .nvDone | .nvFailed => false))) ∧
      t.clock = s.clock ∧ t.leases = s.leases ∧ t.scrubQueue = s.scrubQueue ∧ t.pool = s.pool ∧
      t.running = s.running ∧ t.response = s.response ∧ t.waitQueue = s.waitQueue

/-! ## Laws of the device -/

/-- The laws hold right after reset, in the state that the model takes for it (log 12): a part as shipped, after steps 1 to 6
of its start-up from the factory slot. The values of that state are those of R1, R16, R21, R41, R73, R101, R106, R114, R124,
R125, R152, R155, R156, R158, R167 and R178. -/
def Obligations.LawsHoldAtReset : Prop :=
  Capacities State.reset ∧ DrainLaw State.reset ∧ PortLaw State.reset ∧ HolderLaw State.reset ∧
    ReadTagLaw State.reset ∧ HoldingsLaw State.reset ∧ Exclusion State.reset ∧ ScrubEngineLaw State.reset ∧ LinkLaw State.reset ∧
    ClockLaw State.reset ∧ State.reset.pool.wf = true ∧
    State.reset.phase = .startingUp true ∧ State.reset.clock = 0 ∧ (∀ i, State.reset.lease i = emptyRecord 0) ∧
    State.reset.held = [] ∧ (∀ p, State.reset.port p = (afterPowerOn State.reset).port p) ∧
    State.reset.waitQueue = [] ∧ State.reset.commandServed = 3 ∧ State.reset.accessServed = 3 ∧
    (∀ n, State.reset.slot n = none) ∧ State.reset.scrubSlot = none ∧ State.reset.scrubQueue = [⟨0, 4096⟩] ∧
    State.reset.operations = [] ∧ (∀ n : Fin 4, n ≠ 0 → State.reset.validImage n = none) ∧
    State.reset.bootCell.named = some 0 ∧ State.reset.running = factoryProfile ∧
    State.reset.geometry = ⟨4096, true⟩ ∧ State.reset.standingSet = factoryProfile.standing ∧
    State.reset.report = ⟨.slot 0, none, Vector.replicate 16 .unused⟩ ∧ State.reset.nvOperation = none ∧
    State.reset.response = none ∧ State.reset.alertCauses = 0 ∧ State.reset.alertMaskBits = 0xFFF

/-- Every step keeps the capacities of the queues and lists (R40, R104, R125, R141). -/
def Obligations.StepKeepsCapacities : Prop :=
  ∀ s t : State, Capacities s → step s = .next t → Capacities t

/-- Every step keeps the law of R116: the drain count of each lease equals the number of occupied host slots whose
lease index names it, and the drain count of a FREE lease is zero. -/
def Obligations.StepKeepsDrainLaw : Prop :=
  ∀ s t : State, DrainLaw s → step s = .next t → DrainLaw t

/-- Every step keeps the laws of the ports: those of the wait queue (R43, R63), of the notification store (R129) and of
ports out of ONLINE (R150), with the law of port states as a premise; and beside them the laws of holders, as R5 and R6
state them, of read tags (R113) and of holdings (R7). -/
def Obligations.StepKeepsPortLaw : Prop :=
  ∀ s t : State, LinkLaw s → PortLaw s → step s = .next t →
    PortLaw t ∧ (HolderLaw s → HolderLaw t) ∧ (ReadTagLaw s → ReadTagLaw t) ∧ (HoldingsLaw s → HoldingsLaw t)

/-- Every step keeps the exclusion laws (R31, R32, R93). The other laws stand as premises: without them a state that no
run reaches could retire a held lease twice, or grant while every record is to be FREE. -/
def Obligations.StepKeepsExclusion : Prop :=
  ∀ s t : State, DrainLaw s → LinkLaw s → PortLaw s → Exclusion s → step s = .next t → Exclusion t

/-- Every step keeps the law of the scrub engine (R94, R95), the law of port states and link flags (R139, R140), the
lease clock at 0 before readiness (R21), and the canonical form of the pool. The port state DOWN before readiness after a
device reset (log 10) and the pool's form (log 7) are the model's own. -/
def Obligations.StepKeepsEngineLinksAndClock : Prop :=
  ∀ s t : State, step s = .next t →
    (ScrubEngineLaw s → ScrubEngineLaw t) ∧ (PortLaw s → LinkLaw s → LinkLaw t) ∧ (ClockLaw s → ClockLaw t) ∧
      (s.pool.wf = true → t.pool.wf = true)
end

