-- ==== Sys2Proof/Laws/State.lean ====
section
/-! SUPPORT. The small lemmas of the state: each field after each update of one place, and the tables read after
they are written. -/

namespace Sys2Proof.Machine

/-! ## Tables -/

@[simp] theorem mapVector_getElem {α β : Type} {n : Nat} (f : α → β) (v : Vector α n) (i : Nat) (h : i < n) :
    (mapVector f v)[i] = f v[i] := by
  simp [mapVector]

@[simp] theorem State.lease_setLease (s : State) (i j : RecordIndex) (r : LeaseRecord) :
    (s.setLease i r).lease j = if i = j then r else s.lease j := by
  simp [State.lease, State.setLease, Vector.getElem_set, Fin.ext_iff]

@[simp] theorem State.port_setPort (s : State) (p q : Port) (r : PortRecord) :
    (s.setPort p r).port q = if p = q then r else s.port q := by
  simp [State.port, State.setPort, Vector.getElem_set, Fin.ext_iff]

@[simp] theorem State.slot_setSlot (s : State) (k n : HostSlotNumber) (x : Option HostSlot) :
    (s.setSlot k x).slot n = if k = n then x else s.slot n := by
  simp [State.slot, State.setSlot, Vector.getElem_set, Fin.ext_iff]

theorem State.setPort_setPort (s : State) (p : Port) (r r' : PortRecord) :
    (s.setPort p r).setPort p r' = s.setPort p r' := by
  simp [State.setPort, Vector.set_set]

theorem State.setLease_setLease (s : State) (i : RecordIndex) (r r' : LeaseRecord) :
    (s.setLease i r).setLease i r' = s.setLease i r' := by
  simp [State.setLease, Vector.set_set]

theorem State.setPort_setLease (s : State) (i : RecordIndex) (r : LeaseRecord) (p : Port) (q : PortRecord) :
    (s.setLease i r).setPort p q = (s.setPort p q).setLease i r := rfl

/-- Two states are equal when all their fields are. -/
theorem State.port_eq_of_ports_eq {s t : State} (h : s.ports = t.ports) (p : Port) : s.port p = t.port p := by
  simp [State.port, h]

theorem State.lease_eq_of_leases_eq {s t : State} (h : s.leases = t.leases) (i : RecordIndex) :
    s.lease i = t.lease i := by
  simp [State.lease, h]

/-! ## Fields after an update -/

@[simp] theorem State.setLease_pending (s : State) (i : RecordIndex) (r : LeaseRecord) : (s.setLease i r).pending = s.pending := rfl
@[simp] theorem State.setLease_phase (s : State) (i : RecordIndex) (r : LeaseRecord) : (s.setLease i r).phase = s.phase := rfl
@[simp] theorem State.setLease_clock (s : State) (i : RecordIndex) (r : LeaseRecord) : (s.setLease i r).clock = s.clock := rfl
@[simp] theorem State.setLease_held (s : State) (i : RecordIndex) (r : LeaseRecord) : (s.setLease i r).held = s.held := rfl
@[simp] theorem State.setLease_ports (s : State) (i : RecordIndex) (r : LeaseRecord) : (s.setLease i r).ports = s.ports := rfl
@[simp] theorem State.setLease_waitQueue (s : State) (i : RecordIndex) (r : LeaseRecord) : (s.setLease i r).waitQueue = s.waitQueue := rfl
@[simp] theorem State.setLease_commandServed (s : State) (i : RecordIndex) (r : LeaseRecord) : (s.setLease i r).commandServed = s.commandServed := rfl
@[simp] theorem State.setLease_accessServed (s : State) (i : RecordIndex) (r : LeaseRecord) : (s.setLease i r).accessServed = s.accessServed := rfl
@[simp] theorem State.setLease_hostSlots (s : State) (i : RecordIndex) (r : LeaseRecord) : (s.setLease i r).hostSlots = s.hostSlots := rfl
@[simp] theorem State.setLease_scrubSlot (s : State) (i : RecordIndex) (r : LeaseRecord) : (s.setLease i r).scrubSlot = s.scrubSlot := rfl
@[simp] theorem State.setLease_scrubQueue (s : State) (i : RecordIndex) (r : LeaseRecord) : (s.setLease i r).scrubQueue = s.scrubQueue := rfl
@[simp] theorem State.setLease_operations (s : State) (i : RecordIndex) (r : LeaseRecord) : (s.setLease i r).operations = s.operations := rfl
@[simp] theorem State.setLease_pool (s : State) (i : RecordIndex) (r : LeaseRecord) : (s.setLease i r).pool = s.pool := rfl
@[simp] theorem State.setLease_userSlots (s : State) (i : RecordIndex) (r : LeaseRecord) : (s.setLease i r).userSlots = s.userSlots := rfl
@[simp] theorem State.setLease_bootCell (s : State) (i : RecordIndex) (r : LeaseRecord) : (s.setLease i r).bootCell = s.bootCell := rfl
@[simp] theorem State.setLease_running (s : State) (i : RecordIndex) (r : LeaseRecord) : (s.setLease i r).running = s.running := rfl
@[simp] theorem State.setLease_geometry (s : State) (i : RecordIndex) (r : LeaseRecord) : (s.setLease i r).geometry = s.geometry := rfl
@[simp] theorem State.setLease_standingSet (s : State) (i : RecordIndex) (r : LeaseRecord) : (s.setLease i r).standingSet = s.standingSet := rfl
@[simp] theorem State.setLease_report (s : State) (i : RecordIndex) (r : LeaseRecord) : (s.setLease i r).report = s.report := rfl
@[simp] theorem State.setLease_nvOperation (s : State) (i : RecordIndex) (r : LeaseRecord) : (s.setLease i r).nvOperation = s.nvOperation := rfl
@[simp] theorem State.setLease_response (s : State) (i : RecordIndex) (r : LeaseRecord) : (s.setLease i r).response = s.response := rfl
@[simp] theorem State.setLease_alertCauses (s : State) (i : RecordIndex) (r : LeaseRecord) : (s.setLease i r).alertCauses = s.alertCauses := rfl
@[simp] theorem State.setLease_alertMaskBits (s : State) (i : RecordIndex) (r : LeaseRecord) : (s.setLease i r).alertMaskBits = s.alertMaskBits := rfl
@[simp] theorem State.setLease_choices (s : State) (i : RecordIndex) (r : LeaseRecord) : (s.setLease i r).choices = s.choices := rfl
@[simp] theorem State.port_setLease (s : State) (i : RecordIndex) (r : LeaseRecord) (q : Port) : (s.setLease i r).port q = s.port q := rfl
@[simp] theorem State.slot_setLease (s : State) (i : RecordIndex) (r : LeaseRecord) (n : HostSlotNumber) : (s.setLease i r).slot n = s.slot n := rfl
@[simp] theorem State.policy_setLease (s : State) (i : RecordIndex) (r : LeaseRecord) (q : Port) : (s.setLease i r).policy q = s.policy q := rfl

@[simp] theorem State.setPort_pending (s : State) (p : Port) (r : PortRecord) : (s.setPort p r).pending = s.pending := rfl
@[simp] theorem State.setPort_phase (s : State) (p : Port) (r : PortRecord) : (s.setPort p r).phase = s.phase := rfl
@[simp] theorem State.setPort_clock (s : State) (p : Port) (r : PortRecord) : (s.setPort p r).clock = s.clock := rfl
@[simp] theorem State.setPort_leases (s : State) (p : Port) (r : PortRecord) : (s.setPort p r).leases = s.leases := rfl
@[simp] theorem State.setPort_held (s : State) (p : Port) (r : PortRecord) : (s.setPort p r).held = s.held := rfl
@[simp] theorem State.setPort_waitQueue (s : State) (p : Port) (r : PortRecord) : (s.setPort p r).waitQueue = s.waitQueue := rfl
@[simp] theorem State.setPort_commandServed (s : State) (p : Port) (r : PortRecord) : (s.setPort p r).commandServed = s.commandServed := rfl
@[simp] theorem State.setPort_accessServed (s : State) (p : Port) (r : PortRecord) : (s.setPort p r).accessServed = s.accessServed := rfl
@[simp] theorem State.setPort_hostSlots (s : State) (p : Port) (r : PortRecord) : (s.setPort p r).hostSlots = s.hostSlots := rfl
@[simp] theorem State.setPort_scrubSlot (s : State) (p : Port) (r : PortRecord) : (s.setPort p r).scrubSlot = s.scrubSlot := rfl
@[simp] theorem State.setPort_scrubQueue (s : State) (p : Port) (r : PortRecord) : (s.setPort p r).scrubQueue = s.scrubQueue := rfl
@[simp] theorem State.setPort_operations (s : State) (p : Port) (r : PortRecord) : (s.setPort p r).operations = s.operations := rfl
@[simp] theorem State.setPort_pool (s : State) (p : Port) (r : PortRecord) : (s.setPort p r).pool = s.pool := rfl
@[simp] theorem State.setPort_userSlots (s : State) (p : Port) (r : PortRecord) : (s.setPort p r).userSlots = s.userSlots := rfl
@[simp] theorem State.setPort_bootCell (s : State) (p : Port) (r : PortRecord) : (s.setPort p r).bootCell = s.bootCell := rfl
@[simp] theorem State.setPort_running (s : State) (p : Port) (r : PortRecord) : (s.setPort p r).running = s.running := rfl
@[simp] theorem State.setPort_geometry (s : State) (p : Port) (r : PortRecord) : (s.setPort p r).geometry = s.geometry := rfl
@[simp] theorem State.setPort_standingSet (s : State) (p : Port) (r : PortRecord) : (s.setPort p r).standingSet = s.standingSet := rfl
@[simp] theorem State.setPort_report (s : State) (p : Port) (r : PortRecord) : (s.setPort p r).report = s.report := rfl
@[simp] theorem State.setPort_nvOperation (s : State) (p : Port) (r : PortRecord) : (s.setPort p r).nvOperation = s.nvOperation := rfl
@[simp] theorem State.setPort_response (s : State) (p : Port) (r : PortRecord) : (s.setPort p r).response = s.response := rfl
@[simp] theorem State.setPort_alertCauses (s : State) (p : Port) (r : PortRecord) : (s.setPort p r).alertCauses = s.alertCauses := rfl
@[simp] theorem State.setPort_alertMaskBits (s : State) (p : Port) (r : PortRecord) : (s.setPort p r).alertMaskBits = s.alertMaskBits := rfl
@[simp] theorem State.setPort_choices (s : State) (p : Port) (r : PortRecord) : (s.setPort p r).choices = s.choices := rfl
@[simp] theorem State.lease_setPort (s : State) (p : Port) (r : PortRecord) (j : RecordIndex) : (s.setPort p r).lease j = s.lease j := rfl
@[simp] theorem State.slot_setPort (s : State) (p : Port) (r : PortRecord) (n : HostSlotNumber) : (s.setPort p r).slot n = s.slot n := rfl
@[simp] theorem State.policy_setPort (s : State) (p : Port) (r : PortRecord) (q : Port) : (s.setPort p r).policy q = s.policy q := rfl

@[simp] theorem State.setSlot_pending (s : State) (k : HostSlotNumber) (x : Option HostSlot) : (s.setSlot k x).pending = s.pending := rfl
@[simp] theorem State.setSlot_phase (s : State) (k : HostSlotNumber) (x : Option HostSlot) : (s.setSlot k x).phase = s.phase := rfl
@[simp] theorem State.setSlot_clock (s : State) (k : HostSlotNumber) (x : Option HostSlot) : (s.setSlot k x).clock = s.clock := rfl
@[simp] theorem State.setSlot_leases (s : State) (k : HostSlotNumber) (x : Option HostSlot) : (s.setSlot k x).leases = s.leases := rfl
@[simp] theorem State.setSlot_held (s : State) (k : HostSlotNumber) (x : Option HostSlot) : (s.setSlot k x).held = s.held := rfl
@[simp] theorem State.setSlot_ports (s : State) (k : HostSlotNumber) (x : Option HostSlot) : (s.setSlot k x).ports = s.ports := rfl
@[simp] theorem State.setSlot_waitQueue (s : State) (k : HostSlotNumber) (x : Option HostSlot) : (s.setSlot k x).waitQueue = s.waitQueue := rfl
@[simp] theorem State.setSlot_commandServed (s : State) (k : HostSlotNumber) (x : Option HostSlot) : (s.setSlot k x).commandServed = s.commandServed := rfl
@[simp] theorem State.setSlot_accessServed (s : State) (k : HostSlotNumber) (x : Option HostSlot) : (s.setSlot k x).accessServed = s.accessServed := rfl
@[simp] theorem State.setSlot_scrubSlot (s : State) (k : HostSlotNumber) (x : Option HostSlot) : (s.setSlot k x).scrubSlot = s.scrubSlot := rfl
@[simp] theorem State.setSlot_scrubQueue (s : State) (k : HostSlotNumber) (x : Option HostSlot) : (s.setSlot k x).scrubQueue = s.scrubQueue := rfl
@[simp] theorem State.setSlot_operations (s : State) (k : HostSlotNumber) (x : Option HostSlot) : (s.setSlot k x).operations = s.operations := rfl
@[simp] theorem State.setSlot_pool (s : State) (k : HostSlotNumber) (x : Option HostSlot) : (s.setSlot k x).pool = s.pool := rfl
@[simp] theorem State.setSlot_userSlots (s : State) (k : HostSlotNumber) (x : Option HostSlot) : (s.setSlot k x).userSlots = s.userSlots := rfl
@[simp] theorem State.setSlot_bootCell (s : State) (k : HostSlotNumber) (x : Option HostSlot) : (s.setSlot k x).bootCell = s.bootCell := rfl
@[simp] theorem State.setSlot_running (s : State) (k : HostSlotNumber) (x : Option HostSlot) : (s.setSlot k x).running = s.running := rfl
@[simp] theorem State.setSlot_geometry (s : State) (k : HostSlotNumber) (x : Option HostSlot) : (s.setSlot k x).geometry = s.geometry := rfl
@[simp] theorem State.setSlot_standingSet (s : State) (k : HostSlotNumber) (x : Option HostSlot) : (s.setSlot k x).standingSet = s.standingSet := rfl
@[simp] theorem State.setSlot_report (s : State) (k : HostSlotNumber) (x : Option HostSlot) : (s.setSlot k x).report = s.report := rfl
@[simp] theorem State.setSlot_nvOperation (s : State) (k : HostSlotNumber) (x : Option HostSlot) : (s.setSlot k x).nvOperation = s.nvOperation := rfl
@[simp] theorem State.setSlot_response (s : State) (k : HostSlotNumber) (x : Option HostSlot) : (s.setSlot k x).response = s.response := rfl
@[simp] theorem State.setSlot_alertCauses (s : State) (k : HostSlotNumber) (x : Option HostSlot) : (s.setSlot k x).alertCauses = s.alertCauses := rfl
@[simp] theorem State.setSlot_alertMaskBits (s : State) (k : HostSlotNumber) (x : Option HostSlot) : (s.setSlot k x).alertMaskBits = s.alertMaskBits := rfl
@[simp] theorem State.setSlot_choices (s : State) (k : HostSlotNumber) (x : Option HostSlot) : (s.setSlot k x).choices = s.choices := rfl
@[simp] theorem State.lease_setSlot (s : State) (k : HostSlotNumber) (x : Option HostSlot) (j : RecordIndex) : (s.setSlot k x).lease j = s.lease j := rfl
@[simp] theorem State.port_setSlot (s : State) (k : HostSlotNumber) (x : Option HostSlot) (q : Port) : (s.setSlot k x).port q = s.port q := rfl
@[simp] theorem State.policy_setSlot (s : State) (k : HostSlotNumber) (x : Option HostSlot) (q : Port) : (s.setSlot k x).policy q = s.policy q := rfl

@[simp] theorem State.setAlert_pending (s : State) (c : AlertCause) : (s.setAlert c).pending = s.pending := rfl
@[simp] theorem State.setAlert_phase (s : State) (c : AlertCause) : (s.setAlert c).phase = s.phase := rfl
@[simp] theorem State.setAlert_clock (s : State) (c : AlertCause) : (s.setAlert c).clock = s.clock := rfl
@[simp] theorem State.setAlert_leases (s : State) (c : AlertCause) : (s.setAlert c).leases = s.leases := rfl
@[simp] theorem State.setAlert_held (s : State) (c : AlertCause) : (s.setAlert c).held = s.held := rfl
@[simp] theorem State.setAlert_ports (s : State) (c : AlertCause) : (s.setAlert c).ports = s.ports := rfl
@[simp] theorem State.setAlert_waitQueue (s : State) (c : AlertCause) : (s.setAlert c).waitQueue = s.waitQueue := rfl
@[simp] theorem State.setAlert_commandServed (s : State) (c : AlertCause) : (s.setAlert c).commandServed = s.commandServed := rfl
@[simp] theorem State.setAlert_accessServed (s : State) (c : AlertCause) : (s.setAlert c).accessServed = s.accessServed := rfl
@[simp] theorem State.setAlert_hostSlots (s : State) (c : AlertCause) : (s.setAlert c).hostSlots = s.hostSlots := rfl
@[simp] theorem State.setAlert_scrubSlot (s : State) (c : AlertCause) : (s.setAlert c).scrubSlot = s.scrubSlot := rfl
@[simp] theorem State.setAlert_scrubQueue (s : State) (c : AlertCause) : (s.setAlert c).scrubQueue = s.scrubQueue := rfl
@[simp] theorem State.setAlert_operations (s : State) (c : AlertCause) : (s.setAlert c).operations = s.operations := rfl
@[simp] theorem State.setAlert_pool (s : State) (c : AlertCause) : (s.setAlert c).pool = s.pool := rfl
@[simp] theorem State.setAlert_userSlots (s : State) (c : AlertCause) : (s.setAlert c).userSlots = s.userSlots := rfl
@[simp] theorem State.setAlert_bootCell (s : State) (c : AlertCause) : (s.setAlert c).bootCell = s.bootCell := rfl
@[simp] theorem State.setAlert_running (s : State) (c : AlertCause) : (s.setAlert c).running = s.running := rfl
@[simp] theorem State.setAlert_geometry (s : State) (c : AlertCause) : (s.setAlert c).geometry = s.geometry := rfl
@[simp] theorem State.setAlert_standingSet (s : State) (c : AlertCause) : (s.setAlert c).standingSet = s.standingSet := rfl
@[simp] theorem State.setAlert_report (s : State) (c : AlertCause) : (s.setAlert c).report = s.report := rfl
@[simp] theorem State.setAlert_nvOperation (s : State) (c : AlertCause) : (s.setAlert c).nvOperation = s.nvOperation := rfl
@[simp] theorem State.setAlert_response (s : State) (c : AlertCause) : (s.setAlert c).response = s.response := rfl
@[simp] theorem State.setAlert_alertMaskBits (s : State) (c : AlertCause) : (s.setAlert c).alertMaskBits = s.alertMaskBits := rfl
@[simp] theorem State.setAlert_choices (s : State) (c : AlertCause) : (s.setAlert c).choices = s.choices := rfl
@[simp] theorem State.lease_setAlert (s : State) (c : AlertCause) (j : RecordIndex) : (s.setAlert c).lease j = s.lease j := rfl
@[simp] theorem State.port_setAlert (s : State) (c : AlertCause) (q : Port) : (s.setAlert c).port q = s.port q := rfl
@[simp] theorem State.slot_setAlert (s : State) (c : AlertCause) (n : HostSlotNumber) : (s.setAlert c).slot n = s.slot n := rfl
@[simp] theorem State.policy_setAlert (s : State) (c : AlertCause) (q : Port) : (s.setAlert c).policy q = s.policy q := rfl

@[simp] theorem State.putResponse_pending (s : State) (c : Byte) (r : ServiceResult) (f : List Byte) : (s.putResponse c r f).pending = s.pending := rfl
@[simp] theorem State.putResponse_phase (s : State) (c : Byte) (r : ServiceResult) (f : List Byte) : (s.putResponse c r f).phase = s.phase := rfl
@[simp] theorem State.putResponse_clock (s : State) (c : Byte) (r : ServiceResult) (f : List Byte) : (s.putResponse c r f).clock = s.clock := rfl
@[simp] theorem State.putResponse_leases (s : State) (c : Byte) (r : ServiceResult) (f : List Byte) : (s.putResponse c r f).leases = s.leases := rfl
@[simp] theorem State.putResponse_held (s : State) (c : Byte) (r : ServiceResult) (f : List Byte) : (s.putResponse c r f).held = s.held := rfl
@[simp] theorem State.putResponse_ports (s : State) (c : Byte) (r : ServiceResult) (f : List Byte) : (s.putResponse c r f).ports = s.ports := rfl
@[simp] theorem State.putResponse_waitQueue (s : State) (c : Byte) (r : ServiceResult) (f : List Byte) : (s.putResponse c r f).waitQueue = s.waitQueue := rfl
@[simp] theorem State.putResponse_commandServed (s : State) (c : Byte) (r : ServiceResult) (f : List Byte) : (s.putResponse c r f).commandServed = s.commandServed := rfl
@[simp] theorem State.putResponse_accessServed (s : State) (c : Byte) (r : ServiceResult) (f : List Byte) : (s.putResponse c r f).accessServed = s.accessServed := rfl
@[simp] theorem State.putResponse_hostSlots (s : State) (c : Byte) (r : ServiceResult) (f : List Byte) : (s.putResponse c r f).hostSlots = s.hostSlots := rfl
@[simp] theorem State.putResponse_scrubSlot (s : State) (c : Byte) (r : ServiceResult) (f : List Byte) : (s.putResponse c r f).scrubSlot = s.scrubSlot := rfl
@[simp] theorem State.putResponse_scrubQueue (s : State) (c : Byte) (r : ServiceResult) (f : List Byte) : (s.putResponse c r f).scrubQueue = s.scrubQueue := rfl
@[simp] theorem State.putResponse_operations (s : State) (c : Byte) (r : ServiceResult) (f : List Byte) : (s.putResponse c r f).operations = s.operations := rfl
@[simp] theorem State.putResponse_pool (s : State) (c : Byte) (r : ServiceResult) (f : List Byte) : (s.putResponse c r f).pool = s.pool := rfl
@[simp] theorem State.putResponse_userSlots (s : State) (c : Byte) (r : ServiceResult) (f : List Byte) : (s.putResponse c r f).userSlots = s.userSlots := rfl
@[simp] theorem State.putResponse_bootCell (s : State) (c : Byte) (r : ServiceResult) (f : List Byte) : (s.putResponse c r f).bootCell = s.bootCell := rfl
@[simp] theorem State.putResponse_running (s : State) (c : Byte) (r : ServiceResult) (f : List Byte) : (s.putResponse c r f).running = s.running := rfl
@[simp] theorem State.putResponse_geometry (s : State) (c : Byte) (r : ServiceResult) (f : List Byte) : (s.putResponse c r f).geometry = s.geometry := rfl
@[simp] theorem State.putResponse_standingSet (s : State) (c : Byte) (r : ServiceResult) (f : List Byte) : (s.putResponse c r f).standingSet = s.standingSet := rfl
@[simp] theorem State.putResponse_report (s : State) (c : Byte) (r : ServiceResult) (f : List Byte) : (s.putResponse c r f).report = s.report := rfl
@[simp] theorem State.putResponse_nvOperation (s : State) (c : Byte) (r : ServiceResult) (f : List Byte) : (s.putResponse c r f).nvOperation = s.nvOperation := rfl
@[simp] theorem State.putResponse_alertCauses (s : State) (c : Byte) (r : ServiceResult) (f : List Byte) : (s.putResponse c r f).alertCauses = s.alertCauses := rfl
@[simp] theorem State.putResponse_alertMaskBits (s : State) (c : Byte) (r : ServiceResult) (f : List Byte) : (s.putResponse c r f).alertMaskBits = s.alertMaskBits := rfl
@[simp] theorem State.putResponse_choices (s : State) (c : Byte) (r : ServiceResult) (f : List Byte) : (s.putResponse c r f).choices = s.choices := rfl
@[simp] theorem State.lease_putResponse (s : State) (c : Byte) (r : ServiceResult) (f : List Byte) (j : RecordIndex) : (s.putResponse c r f).lease j = s.lease j := rfl
@[simp] theorem State.port_putResponse (s : State) (c : Byte) (r : ServiceResult) (f : List Byte) (q : Port) : (s.putResponse c r f).port q = s.port q := rfl
@[simp] theorem State.slot_putResponse (s : State) (c : Byte) (r : ServiceResult) (f : List Byte) (n : HostSlotNumber) : (s.putResponse c r f).slot n = s.slot n := rfl
@[simp] theorem State.policy_putResponse (s : State) (c : Byte) (r : ServiceResult) (f : List Byte) (q : Port) : (s.putResponse c r f).policy q = s.policy q := rfl

@[simp] theorem State.issue_pending (s : State) (k : HostSlotNumber) (x : PoolRequest) : (s.issue k x).pending = s.pending := rfl
@[simp] theorem State.issue_phase (s : State) (k : HostSlotNumber) (x : PoolRequest) : (s.issue k x).phase = s.phase := rfl
@[simp] theorem State.issue_clock (s : State) (k : HostSlotNumber) (x : PoolRequest) : (s.issue k x).clock = s.clock := rfl
@[simp] theorem State.issue_leases (s : State) (k : HostSlotNumber) (x : PoolRequest) : (s.issue k x).leases = s.leases := rfl
@[simp] theorem State.issue_held (s : State) (k : HostSlotNumber) (x : PoolRequest) : (s.issue k x).held = s.held := rfl
@[simp] theorem State.issue_ports (s : State) (k : HostSlotNumber) (x : PoolRequest) : (s.issue k x).ports = s.ports := rfl
@[simp] theorem State.issue_waitQueue (s : State) (k : HostSlotNumber) (x : PoolRequest) : (s.issue k x).waitQueue = s.waitQueue := rfl
@[simp] theorem State.issue_commandServed (s : State) (k : HostSlotNumber) (x : PoolRequest) : (s.issue k x).commandServed = s.commandServed := rfl
@[simp] theorem State.issue_accessServed (s : State) (k : HostSlotNumber) (x : PoolRequest) : (s.issue k x).accessServed = s.accessServed := rfl
@[simp] theorem State.issue_hostSlots (s : State) (k : HostSlotNumber) (x : PoolRequest) : (s.issue k x).hostSlots = s.hostSlots := rfl
@[simp] theorem State.issue_scrubSlot (s : State) (k : HostSlotNumber) (x : PoolRequest) : (s.issue k x).scrubSlot = s.scrubSlot := rfl
@[simp] theorem State.issue_scrubQueue (s : State) (k : HostSlotNumber) (x : PoolRequest) : (s.issue k x).scrubQueue = s.scrubQueue := rfl
@[simp] theorem State.issue_pool (s : State) (k : HostSlotNumber) (x : PoolRequest) : (s.issue k x).pool = s.pool := rfl
@[simp] theorem State.issue_userSlots (s : State) (k : HostSlotNumber) (x : PoolRequest) : (s.issue k x).userSlots = s.userSlots := rfl
@[simp] theorem State.issue_bootCell (s : State) (k : HostSlotNumber) (x : PoolRequest) : (s.issue k x).bootCell = s.bootCell := rfl
@[simp] theorem State.issue_running (s : State) (k : HostSlotNumber) (x : PoolRequest) : (s.issue k x).running = s.running := rfl
@[simp] theorem State.issue_geometry (s : State) (k : HostSlotNumber) (x : PoolRequest) : (s.issue k x).geometry = s.geometry := rfl
@[simp] theorem State.issue_standingSet (s : State) (k : HostSlotNumber) (x : PoolRequest) : (s.issue k x).standingSet = s.standingSet := rfl
@[simp] theorem State.issue_report (s : State) (k : HostSlotNumber) (x : PoolRequest) : (s.issue k x).report = s.report := rfl
@[simp] theorem State.issue_nvOperation (s : State) (k : HostSlotNumber) (x : PoolRequest) : (s.issue k x).nvOperation = s.nvOperation := rfl
@[simp] theorem State.issue_response (s : State) (k : HostSlotNumber) (x : PoolRequest) : (s.issue k x).response = s.response := rfl
@[simp] theorem State.issue_alertCauses (s : State) (k : HostSlotNumber) (x : PoolRequest) : (s.issue k x).alertCauses = s.alertCauses := rfl
@[simp] theorem State.issue_alertMaskBits (s : State) (k : HostSlotNumber) (x : PoolRequest) : (s.issue k x).alertMaskBits = s.alertMaskBits := rfl
@[simp] theorem State.issue_choices (s : State) (k : HostSlotNumber) (x : PoolRequest) : (s.issue k x).choices = s.choices := rfl
@[simp] theorem State.lease_issue (s : State) (k : HostSlotNumber) (x : PoolRequest) (j : RecordIndex) : (s.issue k x).lease j = s.lease j := rfl
@[simp] theorem State.port_issue (s : State) (k : HostSlotNumber) (x : PoolRequest) (q : Port) : (s.issue k x).port q = s.port q := rfl
@[simp] theorem State.slot_issue (s : State) (k : HostSlotNumber) (x : PoolRequest) (n : HostSlotNumber) : (s.issue k x).slot n = s.slot n := rfl
@[simp] theorem State.policy_issue (s : State) (k : HostSlotNumber) (x : PoolRequest) (q : Port) : (s.issue k x).policy q = s.policy q := rfl

@[simp] theorem State.forget_pending (s : State) (k : HostSlotNumber) : (s.forget k).pending = s.pending := rfl
@[simp] theorem State.forget_phase (s : State) (k : HostSlotNumber) : (s.forget k).phase = s.phase := rfl
@[simp] theorem State.forget_clock (s : State) (k : HostSlotNumber) : (s.forget k).clock = s.clock := rfl
@[simp] theorem State.forget_leases (s : State) (k : HostSlotNumber) : (s.forget k).leases = s.leases := rfl
@[simp] theorem State.forget_held (s : State) (k : HostSlotNumber) : (s.forget k).held = s.held := rfl
@[simp] theorem State.forget_ports (s : State) (k : HostSlotNumber) : (s.forget k).ports = s.ports := rfl
@[simp] theorem State.forget_waitQueue (s : State) (k : HostSlotNumber) : (s.forget k).waitQueue = s.waitQueue := rfl
@[simp] theorem State.forget_commandServed (s : State) (k : HostSlotNumber) : (s.forget k).commandServed = s.commandServed := rfl
@[simp] theorem State.forget_accessServed (s : State) (k : HostSlotNumber) : (s.forget k).accessServed = s.accessServed := rfl
@[simp] theorem State.forget_hostSlots (s : State) (k : HostSlotNumber) : (s.forget k).hostSlots = s.hostSlots := rfl
@[simp] theorem State.forget_scrubSlot (s : State) (k : HostSlotNumber) : (s.forget k).scrubSlot = s.scrubSlot := rfl
@[simp] theorem State.forget_scrubQueue (s : State) (k : HostSlotNumber) : (s.forget k).scrubQueue = s.scrubQueue := rfl
@[simp] theorem State.forget_pool (s : State) (k : HostSlotNumber) : (s.forget k).pool = s.pool := rfl
@[simp] theorem State.forget_userSlots (s : State) (k : HostSlotNumber) : (s.forget k).userSlots = s.userSlots := rfl
@[simp] theorem State.forget_bootCell (s : State) (k : HostSlotNumber) : (s.forget k).bootCell = s.bootCell := rfl
@[simp] theorem State.forget_running (s : State) (k : HostSlotNumber) : (s.forget k).running = s.running := rfl
@[simp] theorem State.forget_geometry (s : State) (k : HostSlotNumber) : (s.forget k).geometry = s.geometry := rfl
@[simp] theorem State.forget_standingSet (s : State) (k : HostSlotNumber) : (s.forget k).standingSet = s.standingSet := rfl
@[simp] theorem State.forget_report (s : State) (k : HostSlotNumber) : (s.forget k).report = s.report := rfl
@[simp] theorem State.forget_nvOperation (s : State) (k : HostSlotNumber) : (s.forget k).nvOperation = s.nvOperation := rfl
@[simp] theorem State.forget_response (s : State) (k : HostSlotNumber) : (s.forget k).response = s.response := rfl
@[simp] theorem State.forget_alertCauses (s : State) (k : HostSlotNumber) : (s.forget k).alertCauses = s.alertCauses := rfl
@[simp] theorem State.forget_alertMaskBits (s : State) (k : HostSlotNumber) : (s.forget k).alertMaskBits = s.alertMaskBits := rfl
@[simp] theorem State.forget_choices (s : State) (k : HostSlotNumber) : (s.forget k).choices = s.choices := rfl
@[simp] theorem State.lease_forget (s : State) (k : HostSlotNumber) (j : RecordIndex) : (s.forget k).lease j = s.lease j := rfl
@[simp] theorem State.port_forget (s : State) (k : HostSlotNumber) (q : Port) : (s.forget k).port q = s.port q := rfl
@[simp] theorem State.slot_forget (s : State) (k : HostSlotNumber) (n : HostSlotNumber) : (s.forget k).slot n = s.slot n := rfl
@[simp] theorem State.policy_forget (s : State) (k : HostSlotNumber) (q : Port) : (s.forget k).policy q = s.policy q := rfl

@[simp] theorem State.freeRecord_pending (s : State) (i : RecordIndex) : (s.freeRecord i).pending = s.pending := rfl
@[simp] theorem State.freeRecord_phase (s : State) (i : RecordIndex) : (s.freeRecord i).phase = s.phase := rfl
@[simp] theorem State.freeRecord_clock (s : State) (i : RecordIndex) : (s.freeRecord i).clock = s.clock := rfl
@[simp] theorem State.freeRecord_held (s : State) (i : RecordIndex) : (s.freeRecord i).held = s.held := rfl
@[simp] theorem State.freeRecord_ports (s : State) (i : RecordIndex) : (s.freeRecord i).ports = s.ports := rfl
@[simp] theorem State.freeRecord_waitQueue (s : State) (i : RecordIndex) : (s.freeRecord i).waitQueue = s.waitQueue := rfl
@[simp] theorem State.freeRecord_commandServed (s : State) (i : RecordIndex) : (s.freeRecord i).commandServed = s.commandServed := rfl
@[simp] theorem State.freeRecord_accessServed (s : State) (i : RecordIndex) : (s.freeRecord i).accessServed = s.accessServed := rfl
@[simp] theorem State.freeRecord_hostSlots (s : State) (i : RecordIndex) : (s.freeRecord i).hostSlots = s.hostSlots := rfl
@[simp] theorem State.freeRecord_scrubSlot (s : State) (i : RecordIndex) : (s.freeRecord i).scrubSlot = s.scrubSlot := rfl
@[simp] theorem State.freeRecord_scrubQueue (s : State) (i : RecordIndex) : (s.freeRecord i).scrubQueue = s.scrubQueue := rfl
@[simp] theorem State.freeRecord_operations (s : State) (i : RecordIndex) : (s.freeRecord i).operations = s.operations := rfl
@[simp] theorem State.freeRecord_pool (s : State) (i : RecordIndex) : (s.freeRecord i).pool = s.pool := rfl
@[simp] theorem State.freeRecord_userSlots (s : State) (i : RecordIndex) : (s.freeRecord i).userSlots = s.userSlots := rfl
@[simp] theorem State.freeRecord_bootCell (s : State) (i : RecordIndex) : (s.freeRecord i).bootCell = s.bootCell := rfl
@[simp] theorem State.freeRecord_running (s : State) (i : RecordIndex) : (s.freeRecord i).running = s.running := rfl
@[simp] theorem State.freeRecord_geometry (s : State) (i : RecordIndex) : (s.freeRecord i).geometry = s.geometry := rfl
@[simp] theorem State.freeRecord_standingSet (s : State) (i : RecordIndex) : (s.freeRecord i).standingSet = s.standingSet := rfl
@[simp] theorem State.freeRecord_report (s : State) (i : RecordIndex) : (s.freeRecord i).report = s.report := rfl
@[simp] theorem State.freeRecord_nvOperation (s : State) (i : RecordIndex) : (s.freeRecord i).nvOperation = s.nvOperation := rfl
@[simp] theorem State.freeRecord_response (s : State) (i : RecordIndex) : (s.freeRecord i).response = s.response := rfl
@[simp] theorem State.freeRecord_alertCauses (s : State) (i : RecordIndex) : (s.freeRecord i).alertCauses = s.alertCauses := rfl
@[simp] theorem State.freeRecord_alertMaskBits (s : State) (i : RecordIndex) : (s.freeRecord i).alertMaskBits = s.alertMaskBits := rfl
@[simp] theorem State.freeRecord_choices (s : State) (i : RecordIndex) : (s.freeRecord i).choices = s.choices := rfl
@[simp] theorem State.port_freeRecord (s : State) (i : RecordIndex) (q : Port) : (s.freeRecord i).port q = s.port q := rfl
@[simp] theorem State.slot_freeRecord (s : State) (i : RecordIndex) (n : HostSlotNumber) : (s.freeRecord i).slot n = s.slot n := rfl
@[simp] theorem State.policy_freeRecord (s : State) (i : RecordIndex) (q : Port) : (s.freeRecord i).policy q = s.policy q := rfl

@[simp] theorem State.commandTaken_pending (s : State) (p : Port) : (s.commandTaken p).pending = s.pending := rfl
@[simp] theorem State.commandTaken_phase (s : State) (p : Port) : (s.commandTaken p).phase = s.phase := rfl
@[simp] theorem State.commandTaken_clock (s : State) (p : Port) : (s.commandTaken p).clock = s.clock := rfl
@[simp] theorem State.commandTaken_leases (s : State) (p : Port) : (s.commandTaken p).leases = s.leases := rfl
@[simp] theorem State.commandTaken_held (s : State) (p : Port) : (s.commandTaken p).held = s.held := rfl
@[simp] theorem State.commandTaken_waitQueue (s : State) (p : Port) : (s.commandTaken p).waitQueue = s.waitQueue := rfl
@[simp] theorem State.commandTaken_accessServed (s : State) (p : Port) : (s.commandTaken p).accessServed = s.accessServed := rfl
@[simp] theorem State.commandTaken_hostSlots (s : State) (p : Port) : (s.commandTaken p).hostSlots = s.hostSlots := rfl
@[simp] theorem State.commandTaken_scrubSlot (s : State) (p : Port) : (s.commandTaken p).scrubSlot = s.scrubSlot := rfl
@[simp] theorem State.commandTaken_scrubQueue (s : State) (p : Port) : (s.commandTaken p).scrubQueue = s.scrubQueue := rfl
@[simp] theorem State.commandTaken_operations (s : State) (p : Port) : (s.commandTaken p).operations = s.operations := rfl
@[simp] theorem State.commandTaken_pool (s : State) (p : Port) : (s.commandTaken p).pool = s.pool := rfl
@[simp] theorem State.commandTaken_userSlots (s : State) (p : Port) : (s.commandTaken p).userSlots = s.userSlots := rfl
@[simp] theorem State.commandTaken_bootCell (s : State) (p : Port) : (s.commandTaken p).bootCell = s.bootCell := rfl
@[simp] theorem State.commandTaken_running (s : State) (p : Port) : (s.commandTaken p).running = s.running := rfl
@[simp] theorem State.commandTaken_geometry (s : State) (p : Port) : (s.commandTaken p).geometry = s.geometry := rfl
@[simp] theorem State.commandTaken_standingSet (s : State) (p : Port) : (s.commandTaken p).standingSet = s.standingSet := rfl
@[simp] theorem State.commandTaken_report (s : State) (p : Port) : (s.commandTaken p).report = s.report := rfl
@[simp] theorem State.commandTaken_nvOperation (s : State) (p : Port) : (s.commandTaken p).nvOperation = s.nvOperation := rfl
@[simp] theorem State.commandTaken_response (s : State) (p : Port) : (s.commandTaken p).response = s.response := rfl
@[simp] theorem State.commandTaken_alertCauses (s : State) (p : Port) : (s.commandTaken p).alertCauses = s.alertCauses := rfl
@[simp] theorem State.commandTaken_alertMaskBits (s : State) (p : Port) : (s.commandTaken p).alertMaskBits = s.alertMaskBits := rfl
@[simp] theorem State.commandTaken_choices (s : State) (p : Port) : (s.commandTaken p).choices = s.choices := rfl
@[simp] theorem State.lease_commandTaken (s : State) (p : Port) (j : RecordIndex) : (s.commandTaken p).lease j = s.lease j := rfl
@[simp] theorem State.slot_commandTaken (s : State) (p : Port) (n : HostSlotNumber) : (s.commandTaken p).slot n = s.slot n := rfl
@[simp] theorem State.policy_commandTaken (s : State) (p : Port) (q : Port) : (s.commandTaken p).policy q = s.policy q := rfl

@[simp] theorem State.accessTaken_pending (s : State) (p : Port) : (s.accessTaken p).pending = s.pending := rfl
@[simp] theorem State.accessTaken_phase (s : State) (p : Port) : (s.accessTaken p).phase = s.phase := rfl
@[simp] theorem State.accessTaken_clock (s : State) (p : Port) : (s.accessTaken p).clock = s.clock := rfl
@[simp] theorem State.accessTaken_leases (s : State) (p : Port) : (s.accessTaken p).leases = s.leases := rfl
@[simp] theorem State.accessTaken_held (s : State) (p : Port) : (s.accessTaken p).held = s.held := rfl
@[simp] theorem State.accessTaken_waitQueue (s : State) (p : Port) : (s.accessTaken p).waitQueue = s.waitQueue := rfl
@[simp] theorem State.accessTaken_commandServed (s : State) (p : Port) : (s.accessTaken p).commandServed = s.commandServed := rfl
@[simp] theorem State.accessTaken_hostSlots (s : State) (p : Port) : (s.accessTaken p).hostSlots = s.hostSlots := rfl
@[simp] theorem State.accessTaken_scrubSlot (s : State) (p : Port) : (s.accessTaken p).scrubSlot = s.scrubSlot := rfl
@[simp] theorem State.accessTaken_scrubQueue (s : State) (p : Port) : (s.accessTaken p).scrubQueue = s.scrubQueue := rfl
@[simp] theorem State.accessTaken_operations (s : State) (p : Port) : (s.accessTaken p).operations = s.operations := rfl
@[simp] theorem State.accessTaken_pool (s : State) (p : Port) : (s.accessTaken p).pool = s.pool := rfl
@[simp] theorem State.accessTaken_userSlots (s : State) (p : Port) : (s.accessTaken p).userSlots = s.userSlots := rfl
@[simp] theorem State.accessTaken_bootCell (s : State) (p : Port) : (s.accessTaken p).bootCell = s.bootCell := rfl
@[simp] theorem State.accessTaken_running (s : State) (p : Port) : (s.accessTaken p).running = s.running := rfl
@[simp] theorem State.accessTaken_geometry (s : State) (p : Port) : (s.accessTaken p).geometry = s.geometry := rfl
@[simp] theorem State.accessTaken_standingSet (s : State) (p : Port) : (s.accessTaken p).standingSet = s.standingSet := rfl
@[simp] theorem State.accessTaken_report (s : State) (p : Port) : (s.accessTaken p).report = s.report := rfl
@[simp] theorem State.accessTaken_nvOperation (s : State) (p : Port) : (s.accessTaken p).nvOperation = s.nvOperation := rfl
@[simp] theorem State.accessTaken_response (s : State) (p : Port) : (s.accessTaken p).response = s.response := rfl
@[simp] theorem State.accessTaken_alertCauses (s : State) (p : Port) : (s.accessTaken p).alertCauses = s.alertCauses := rfl
@[simp] theorem State.accessTaken_alertMaskBits (s : State) (p : Port) : (s.accessTaken p).alertMaskBits = s.alertMaskBits := rfl
@[simp] theorem State.accessTaken_choices (s : State) (p : Port) : (s.accessTaken p).choices = s.choices := rfl
@[simp] theorem State.lease_accessTaken (s : State) (p : Port) (j : RecordIndex) : (s.accessTaken p).lease j = s.lease j := rfl
@[simp] theorem State.slot_accessTaken (s : State) (p : Port) (n : HostSlotNumber) : (s.accessTaken p).slot n = s.slot n := rfl
@[simp] theorem State.policy_accessTaken (s : State) (p : Port) (q : Port) : (s.accessTaken p).policy q = s.policy q := rfl

@[simp] theorem State.holdTag_pending (s : State) (p : Port) (t : CommandTag) : (s.holdTag p t).pending = s.pending := rfl
@[simp] theorem State.holdTag_phase (s : State) (p : Port) (t : CommandTag) : (s.holdTag p t).phase = s.phase := rfl
@[simp] theorem State.holdTag_clock (s : State) (p : Port) (t : CommandTag) : (s.holdTag p t).clock = s.clock := rfl
@[simp] theorem State.holdTag_leases (s : State) (p : Port) (t : CommandTag) : (s.holdTag p t).leases = s.leases := rfl
@[simp] theorem State.holdTag_held (s : State) (p : Port) (t : CommandTag) : (s.holdTag p t).held = s.held := rfl
@[simp] theorem State.holdTag_waitQueue (s : State) (p : Port) (t : CommandTag) : (s.holdTag p t).waitQueue = s.waitQueue := rfl
@[simp] theorem State.holdTag_commandServed (s : State) (p : Port) (t : CommandTag) : (s.holdTag p t).commandServed = s.commandServed := rfl
@[simp] theorem State.holdTag_accessServed (s : State) (p : Port) (t : CommandTag) : (s.holdTag p t).accessServed = s.accessServed := rfl
@[simp] theorem State.holdTag_hostSlots (s : State) (p : Port) (t : CommandTag) : (s.holdTag p t).hostSlots = s.hostSlots := rfl
@[simp] theorem State.holdTag_scrubSlot (s : State) (p : Port) (t : CommandTag) : (s.holdTag p t).scrubSlot = s.scrubSlot := rfl
@[simp] theorem State.holdTag_scrubQueue (s : State) (p : Port) (t : CommandTag) : (s.holdTag p t).scrubQueue = s.scrubQueue := rfl
@[simp] theorem State.holdTag_operations (s : State) (p : Port) (t : CommandTag) : (s.holdTag p t).operations = s.operations := rfl
@[simp] theorem State.holdTag_pool (s : State) (p : Port) (t : CommandTag) : (s.holdTag p t).pool = s.pool := rfl
@[simp] theorem State.holdTag_userSlots (s : State) (p : Port) (t : CommandTag) : (s.holdTag p t).userSlots = s.userSlots := rfl
@[simp] theorem State.holdTag_bootCell (s : State) (p : Port) (t : CommandTag) : (s.holdTag p t).bootCell = s.bootCell := rfl
@[simp] theorem State.holdTag_running (s : State) (p : Port) (t : CommandTag) : (s.holdTag p t).running = s.running := rfl
@[simp] theorem State.holdTag_geometry (s : State) (p : Port) (t : CommandTag) : (s.holdTag p t).geometry = s.geometry := rfl
@[simp] theorem State.holdTag_standingSet (s : State) (p : Port) (t : CommandTag) : (s.holdTag p t).standingSet = s.standingSet := rfl
@[simp] theorem State.holdTag_report (s : State) (p : Port) (t : CommandTag) : (s.holdTag p t).report = s.report := rfl
@[simp] theorem State.holdTag_nvOperation (s : State) (p : Port) (t : CommandTag) : (s.holdTag p t).nvOperation = s.nvOperation := rfl
@[simp] theorem State.holdTag_response (s : State) (p : Port) (t : CommandTag) : (s.holdTag p t).response = s.response := rfl
@[simp] theorem State.holdTag_alertCauses (s : State) (p : Port) (t : CommandTag) : (s.holdTag p t).alertCauses = s.alertCauses := rfl
@[simp] theorem State.holdTag_alertMaskBits (s : State) (p : Port) (t : CommandTag) : (s.holdTag p t).alertMaskBits = s.alertMaskBits := rfl
@[simp] theorem State.holdTag_choices (s : State) (p : Port) (t : CommandTag) : (s.holdTag p t).choices = s.choices := rfl
@[simp] theorem State.lease_holdTag (s : State) (p : Port) (t : CommandTag) (j : RecordIndex) : (s.holdTag p t).lease j = s.lease j := rfl
@[simp] theorem State.slot_holdTag (s : State) (p : Port) (t : CommandTag) (n : HostSlotNumber) : (s.holdTag p t).slot n = s.slot n := rfl
@[simp] theorem State.policy_holdTag (s : State) (p : Port) (t : CommandTag) (q : Port) : (s.holdTag p t).policy q = s.policy q := rfl

@[simp] theorem State.freeTag_pending (s : State) (p : Port) (t : CommandTag) : (s.freeTag p t).pending = s.pending := rfl
@[simp] theorem State.freeTag_phase (s : State) (p : Port) (t : CommandTag) : (s.freeTag p t).phase = s.phase := rfl
@[simp] theorem State.freeTag_clock (s : State) (p : Port) (t : CommandTag) : (s.freeTag p t).clock = s.clock := rfl
@[simp] theorem State.freeTag_leases (s : State) (p : Port) (t : CommandTag) : (s.freeTag p t).leases = s.leases := rfl
@[simp] theorem State.freeTag_held (s : State) (p : Port) (t : CommandTag) : (s.freeTag p t).held = s.held := rfl
@[simp] theorem State.freeTag_waitQueue (s : State) (p : Port) (t : CommandTag) : (s.freeTag p t).waitQueue = s.waitQueue := rfl
@[simp] theorem State.freeTag_commandServed (s : State) (p : Port) (t : CommandTag) : (s.freeTag p t).commandServed = s.commandServed := rfl
@[simp] theorem State.freeTag_accessServed (s : State) (p : Port) (t : CommandTag) : (s.freeTag p t).accessServed = s.accessServed := rfl
@[simp] theorem State.freeTag_hostSlots (s : State) (p : Port) (t : CommandTag) : (s.freeTag p t).hostSlots = s.hostSlots := rfl
@[simp] theorem State.freeTag_scrubSlot (s : State) (p : Port) (t : CommandTag) : (s.freeTag p t).scrubSlot = s.scrubSlot := rfl
@[simp] theorem State.freeTag_scrubQueue (s : State) (p : Port) (t : CommandTag) : (s.freeTag p t).scrubQueue = s.scrubQueue := rfl
@[simp] theorem State.freeTag_operations (s : State) (p : Port) (t : CommandTag) : (s.freeTag p t).operations = s.operations := rfl
@[simp] theorem State.freeTag_pool (s : State) (p : Port) (t : CommandTag) : (s.freeTag p t).pool = s.pool := rfl
@[simp] theorem State.freeTag_userSlots (s : State) (p : Port) (t : CommandTag) : (s.freeTag p t).userSlots = s.userSlots := rfl
@[simp] theorem State.freeTag_bootCell (s : State) (p : Port) (t : CommandTag) : (s.freeTag p t).bootCell = s.bootCell := rfl
@[simp] theorem State.freeTag_running (s : State) (p : Port) (t : CommandTag) : (s.freeTag p t).running = s.running := rfl
@[simp] theorem State.freeTag_geometry (s : State) (p : Port) (t : CommandTag) : (s.freeTag p t).geometry = s.geometry := rfl
@[simp] theorem State.freeTag_standingSet (s : State) (p : Port) (t : CommandTag) : (s.freeTag p t).standingSet = s.standingSet := rfl
@[simp] theorem State.freeTag_report (s : State) (p : Port) (t : CommandTag) : (s.freeTag p t).report = s.report := rfl
@[simp] theorem State.freeTag_nvOperation (s : State) (p : Port) (t : CommandTag) : (s.freeTag p t).nvOperation = s.nvOperation := rfl
@[simp] theorem State.freeTag_response (s : State) (p : Port) (t : CommandTag) : (s.freeTag p t).response = s.response := rfl
@[simp] theorem State.freeTag_alertCauses (s : State) (p : Port) (t : CommandTag) : (s.freeTag p t).alertCauses = s.alertCauses := rfl
@[simp] theorem State.freeTag_alertMaskBits (s : State) (p : Port) (t : CommandTag) : (s.freeTag p t).alertMaskBits = s.alertMaskBits := rfl
@[simp] theorem State.freeTag_choices (s : State) (p : Port) (t : CommandTag) : (s.freeTag p t).choices = s.choices := rfl
@[simp] theorem State.lease_freeTag (s : State) (p : Port) (t : CommandTag) (j : RecordIndex) : (s.freeTag p t).lease j = s.lease j := rfl
@[simp] theorem State.slot_freeTag (s : State) (p : Port) (t : CommandTag) (n : HostSlotNumber) : (s.freeTag p t).slot n = s.slot n := rfl
@[simp] theorem State.policy_freeTag (s : State) (p : Port) (t : CommandTag) (q : Port) : (s.freeTag p t).policy q = s.policy q := rfl

@[simp] theorem State.noteRefusal_pending (s : State) (p : Port) (k : AccessKind) (a : PoolAddress) (x : RefusalReason) : (s.noteRefusal p k a x).pending = s.pending := rfl
@[simp] theorem State.noteRefusal_phase (s : State) (p : Port) (k : AccessKind) (a : PoolAddress) (x : RefusalReason) : (s.noteRefusal p k a x).phase = s.phase := rfl
@[simp] theorem State.noteRefusal_clock (s : State) (p : Port) (k : AccessKind) (a : PoolAddress) (x : RefusalReason) : (s.noteRefusal p k a x).clock = s.clock := rfl
@[simp] theorem State.noteRefusal_leases (s : State) (p : Port) (k : AccessKind) (a : PoolAddress) (x : RefusalReason) : (s.noteRefusal p k a x).leases = s.leases := rfl
@[simp] theorem State.noteRefusal_held (s : State) (p : Port) (k : AccessKind) (a : PoolAddress) (x : RefusalReason) : (s.noteRefusal p k a x).held = s.held := rfl
@[simp] theorem State.noteRefusal_waitQueue (s : State) (p : Port) (k : AccessKind) (a : PoolAddress) (x : RefusalReason) : (s.noteRefusal p k a x).waitQueue = s.waitQueue := rfl
@[simp] theorem State.noteRefusal_commandServed (s : State) (p : Port) (k : AccessKind) (a : PoolAddress) (x : RefusalReason) : (s.noteRefusal p k a x).commandServed = s.commandServed := rfl
@[simp] theorem State.noteRefusal_accessServed (s : State) (p : Port) (k : AccessKind) (a : PoolAddress) (x : RefusalReason) : (s.noteRefusal p k a x).accessServed = s.accessServed := rfl
@[simp] theorem State.noteRefusal_hostSlots (s : State) (p : Port) (k : AccessKind) (a : PoolAddress) (x : RefusalReason) : (s.noteRefusal p k a x).hostSlots = s.hostSlots := rfl
@[simp] theorem State.noteRefusal_scrubSlot (s : State) (p : Port) (k : AccessKind) (a : PoolAddress) (x : RefusalReason) : (s.noteRefusal p k a x).scrubSlot = s.scrubSlot := rfl
@[simp] theorem State.noteRefusal_scrubQueue (s : State) (p : Port) (k : AccessKind) (a : PoolAddress) (x : RefusalReason) : (s.noteRefusal p k a x).scrubQueue = s.scrubQueue := rfl
@[simp] theorem State.noteRefusal_operations (s : State) (p : Port) (k : AccessKind) (a : PoolAddress) (x : RefusalReason) : (s.noteRefusal p k a x).operations = s.operations := rfl
@[simp] theorem State.noteRefusal_pool (s : State) (p : Port) (k : AccessKind) (a : PoolAddress) (x : RefusalReason) : (s.noteRefusal p k a x).pool = s.pool := rfl
@[simp] theorem State.noteRefusal_userSlots (s : State) (p : Port) (k : AccessKind) (a : PoolAddress) (x : RefusalReason) : (s.noteRefusal p k a x).userSlots = s.userSlots := rfl
@[simp] theorem State.noteRefusal_bootCell (s : State) (p : Port) (k : AccessKind) (a : PoolAddress) (x : RefusalReason) : (s.noteRefusal p k a x).bootCell = s.bootCell := rfl
@[simp] theorem State.noteRefusal_running (s : State) (p : Port) (k : AccessKind) (a : PoolAddress) (x : RefusalReason) : (s.noteRefusal p k a x).running = s.running := rfl
@[simp] theorem State.noteRefusal_geometry (s : State) (p : Port) (k : AccessKind) (a : PoolAddress) (x : RefusalReason) : (s.noteRefusal p k a x).geometry = s.geometry := rfl
@[simp] theorem State.noteRefusal_standingSet (s : State) (p : Port) (k : AccessKind) (a : PoolAddress) (x : RefusalReason) : (s.noteRefusal p k a x).standingSet = s.standingSet := rfl
@[simp] theorem State.noteRefusal_report (s : State) (p : Port) (k : AccessKind) (a : PoolAddress) (x : RefusalReason) : (s.noteRefusal p k a x).report = s.report := rfl
@[simp] theorem State.noteRefusal_nvOperation (s : State) (p : Port) (k : AccessKind) (a : PoolAddress) (x : RefusalReason) : (s.noteRefusal p k a x).nvOperation = s.nvOperation := rfl
@[simp] theorem State.noteRefusal_response (s : State) (p : Port) (k : AccessKind) (a : PoolAddress) (x : RefusalReason) : (s.noteRefusal p k a x).response = s.response := rfl
@[simp] theorem State.noteRefusal_alertCauses (s : State) (p : Port) (k : AccessKind) (a : PoolAddress) (x : RefusalReason) : (s.noteRefusal p k a x).alertCauses = s.alertCauses := rfl
@[simp] theorem State.noteRefusal_alertMaskBits (s : State) (p : Port) (k : AccessKind) (a : PoolAddress) (x : RefusalReason) : (s.noteRefusal p k a x).alertMaskBits = s.alertMaskBits := rfl
@[simp] theorem State.noteRefusal_choices (s : State) (p : Port) (k : AccessKind) (a : PoolAddress) (x : RefusalReason) : (s.noteRefusal p k a x).choices = s.choices := rfl
@[simp] theorem State.lease_noteRefusal (s : State) (p : Port) (k : AccessKind) (a : PoolAddress) (x : RefusalReason) (j : RecordIndex) : (s.noteRefusal p k a x).lease j = s.lease j := rfl
@[simp] theorem State.slot_noteRefusal (s : State) (p : Port) (k : AccessKind) (a : PoolAddress) (x : RefusalReason) (n : HostSlotNumber) : (s.noteRefusal p k a x).slot n = s.slot n := rfl
@[simp] theorem State.policy_noteRefusal (s : State) (p : Port) (k : AccessKind) (a : PoolAddress) (x : RefusalReason) (q : Port) : (s.noteRefusal p k a x).policy q = s.policy q := rfl

@[simp] theorem State.countAdmission_pending (s : State) (i : RecordIndex) : (s.countAdmission i).pending = s.pending := rfl
@[simp] theorem State.countAdmission_phase (s : State) (i : RecordIndex) : (s.countAdmission i).phase = s.phase := rfl
@[simp] theorem State.countAdmission_clock (s : State) (i : RecordIndex) : (s.countAdmission i).clock = s.clock := rfl
@[simp] theorem State.countAdmission_held (s : State) (i : RecordIndex) : (s.countAdmission i).held = s.held := rfl
@[simp] theorem State.countAdmission_ports (s : State) (i : RecordIndex) : (s.countAdmission i).ports = s.ports := rfl
@[simp] theorem State.countAdmission_waitQueue (s : State) (i : RecordIndex) : (s.countAdmission i).waitQueue = s.waitQueue := rfl
@[simp] theorem State.countAdmission_commandServed (s : State) (i : RecordIndex) : (s.countAdmission i).commandServed = s.commandServed := rfl
@[simp] theorem State.countAdmission_accessServed (s : State) (i : RecordIndex) : (s.countAdmission i).accessServed = s.accessServed := rfl
@[simp] theorem State.countAdmission_hostSlots (s : State) (i : RecordIndex) : (s.countAdmission i).hostSlots = s.hostSlots := rfl
@[simp] theorem State.countAdmission_scrubSlot (s : State) (i : RecordIndex) : (s.countAdmission i).scrubSlot = s.scrubSlot := rfl
@[simp] theorem State.countAdmission_scrubQueue (s : State) (i : RecordIndex) : (s.countAdmission i).scrubQueue = s.scrubQueue := rfl
@[simp] theorem State.countAdmission_operations (s : State) (i : RecordIndex) : (s.countAdmission i).operations = s.operations := rfl
@[simp] theorem State.countAdmission_pool (s : State) (i : RecordIndex) : (s.countAdmission i).pool = s.pool := rfl
@[simp] theorem State.countAdmission_userSlots (s : State) (i : RecordIndex) : (s.countAdmission i).userSlots = s.userSlots := rfl
@[simp] theorem State.countAdmission_bootCell (s : State) (i : RecordIndex) : (s.countAdmission i).bootCell = s.bootCell := rfl
@[simp] theorem State.countAdmission_running (s : State) (i : RecordIndex) : (s.countAdmission i).running = s.running := rfl
@[simp] theorem State.countAdmission_geometry (s : State) (i : RecordIndex) : (s.countAdmission i).geometry = s.geometry := rfl
@[simp] theorem State.countAdmission_standingSet (s : State) (i : RecordIndex) : (s.countAdmission i).standingSet = s.standingSet := rfl
@[simp] theorem State.countAdmission_report (s : State) (i : RecordIndex) : (s.countAdmission i).report = s.report := rfl
@[simp] theorem State.countAdmission_nvOperation (s : State) (i : RecordIndex) : (s.countAdmission i).nvOperation = s.nvOperation := rfl
@[simp] theorem State.countAdmission_response (s : State) (i : RecordIndex) : (s.countAdmission i).response = s.response := rfl
@[simp] theorem State.countAdmission_alertCauses (s : State) (i : RecordIndex) : (s.countAdmission i).alertCauses = s.alertCauses := rfl
@[simp] theorem State.countAdmission_alertMaskBits (s : State) (i : RecordIndex) : (s.countAdmission i).alertMaskBits = s.alertMaskBits := rfl
@[simp] theorem State.countAdmission_choices (s : State) (i : RecordIndex) : (s.countAdmission i).choices = s.choices := rfl
@[simp] theorem State.port_countAdmission (s : State) (i : RecordIndex) (q : Port) : (s.countAdmission i).port q = s.port q := rfl
@[simp] theorem State.slot_countAdmission (s : State) (i : RecordIndex) (n : HostSlotNumber) : (s.countAdmission i).slot n = s.slot n := rfl
@[simp] theorem State.policy_countAdmission (s : State) (i : RecordIndex) (q : Port) : (s.countAdmission i).policy q = s.policy q := rfl

@[simp] theorem State.enterWaitQueue_pending (s : State) (e : WaitEntry) : (s.enterWaitQueue e).pending = s.pending := rfl
@[simp] theorem State.enterWaitQueue_phase (s : State) (e : WaitEntry) : (s.enterWaitQueue e).phase = s.phase := rfl
@[simp] theorem State.enterWaitQueue_clock (s : State) (e : WaitEntry) : (s.enterWaitQueue e).clock = s.clock := rfl
@[simp] theorem State.enterWaitQueue_leases (s : State) (e : WaitEntry) : (s.enterWaitQueue e).leases = s.leases := rfl
@[simp] theorem State.enterWaitQueue_held (s : State) (e : WaitEntry) : (s.enterWaitQueue e).held = s.held := rfl
@[simp] theorem State.enterWaitQueue_commandServed (s : State) (e : WaitEntry) : (s.enterWaitQueue e).commandServed = s.commandServed := rfl
@[simp] theorem State.enterWaitQueue_accessServed (s : State) (e : WaitEntry) : (s.enterWaitQueue e).accessServed = s.accessServed := rfl
@[simp] theorem State.enterWaitQueue_hostSlots (s : State) (e : WaitEntry) : (s.enterWaitQueue e).hostSlots = s.hostSlots := rfl
@[simp] theorem State.enterWaitQueue_scrubSlot (s : State) (e : WaitEntry) : (s.enterWaitQueue e).scrubSlot = s.scrubSlot := rfl
@[simp] theorem State.enterWaitQueue_scrubQueue (s : State) (e : WaitEntry) : (s.enterWaitQueue e).scrubQueue = s.scrubQueue := rfl
@[simp] theorem State.enterWaitQueue_operations (s : State) (e : WaitEntry) : (s.enterWaitQueue e).operations = s.operations := rfl
@[simp] theorem State.enterWaitQueue_pool (s : State) (e : WaitEntry) : (s.enterWaitQueue e).pool = s.pool := rfl
@[simp] theorem State.enterWaitQueue_userSlots (s : State) (e : WaitEntry) : (s.enterWaitQueue e).userSlots = s.userSlots := rfl
@[simp] theorem State.enterWaitQueue_bootCell (s : State) (e : WaitEntry) : (s.enterWaitQueue e).bootCell = s.bootCell := rfl
@[simp] theorem State.enterWaitQueue_running (s : State) (e : WaitEntry) : (s.enterWaitQueue e).running = s.running := rfl
@[simp] theorem State.enterWaitQueue_geometry (s : State) (e : WaitEntry) : (s.enterWaitQueue e).geometry = s.geometry := rfl
@[simp] theorem State.enterWaitQueue_standingSet (s : State) (e : WaitEntry) : (s.enterWaitQueue e).standingSet = s.standingSet := rfl
@[simp] theorem State.enterWaitQueue_report (s : State) (e : WaitEntry) : (s.enterWaitQueue e).report = s.report := rfl
@[simp] theorem State.enterWaitQueue_nvOperation (s : State) (e : WaitEntry) : (s.enterWaitQueue e).nvOperation = s.nvOperation := rfl
@[simp] theorem State.enterWaitQueue_response (s : State) (e : WaitEntry) : (s.enterWaitQueue e).response = s.response := rfl
@[simp] theorem State.enterWaitQueue_alertCauses (s : State) (e : WaitEntry) : (s.enterWaitQueue e).alertCauses = s.alertCauses := rfl
@[simp] theorem State.enterWaitQueue_alertMaskBits (s : State) (e : WaitEntry) : (s.enterWaitQueue e).alertMaskBits = s.alertMaskBits := rfl
@[simp] theorem State.enterWaitQueue_choices (s : State) (e : WaitEntry) : (s.enterWaitQueue e).choices = s.choices := rfl
@[simp] theorem State.lease_enterWaitQueue (s : State) (e : WaitEntry) (j : RecordIndex) : (s.enterWaitQueue e).lease j = s.lease j := rfl
@[simp] theorem State.slot_enterWaitQueue (s : State) (e : WaitEntry) (n : HostSlotNumber) : (s.enterWaitQueue e).slot n = s.slot n := rfl
@[simp] theorem State.policy_enterWaitQueue (s : State) (e : WaitEntry) (q : Port) : (s.enterWaitQueue e).policy q = s.policy q := rfl

@[simp] theorem State.leaveWaitQueue_pending (s : State) (e : WaitEntry) : (s.leaveWaitQueue e).pending = s.pending := rfl
@[simp] theorem State.leaveWaitQueue_phase (s : State) (e : WaitEntry) : (s.leaveWaitQueue e).phase = s.phase := rfl
@[simp] theorem State.leaveWaitQueue_clock (s : State) (e : WaitEntry) : (s.leaveWaitQueue e).clock = s.clock := rfl
@[simp] theorem State.leaveWaitQueue_leases (s : State) (e : WaitEntry) : (s.leaveWaitQueue e).leases = s.leases := rfl
@[simp] theorem State.leaveWaitQueue_held (s : State) (e : WaitEntry) : (s.leaveWaitQueue e).held = s.held := rfl
@[simp] theorem State.leaveWaitQueue_commandServed (s : State) (e : WaitEntry) : (s.leaveWaitQueue e).commandServed = s.commandServed := rfl
@[simp] theorem State.leaveWaitQueue_accessServed (s : State) (e : WaitEntry) : (s.leaveWaitQueue e).accessServed = s.accessServed := rfl
@[simp] theorem State.leaveWaitQueue_hostSlots (s : State) (e : WaitEntry) : (s.leaveWaitQueue e).hostSlots = s.hostSlots := rfl
@[simp] theorem State.leaveWaitQueue_scrubSlot (s : State) (e : WaitEntry) : (s.leaveWaitQueue e).scrubSlot = s.scrubSlot := rfl
@[simp] theorem State.leaveWaitQueue_scrubQueue (s : State) (e : WaitEntry) : (s.leaveWaitQueue e).scrubQueue = s.scrubQueue := rfl
@[simp] theorem State.leaveWaitQueue_operations (s : State) (e : WaitEntry) : (s.leaveWaitQueue e).operations = s.operations := rfl
@[simp] theorem State.leaveWaitQueue_pool (s : State) (e : WaitEntry) : (s.leaveWaitQueue e).pool = s.pool := rfl
@[simp] theorem State.leaveWaitQueue_userSlots (s : State) (e : WaitEntry) : (s.leaveWaitQueue e).userSlots = s.userSlots := rfl
@[simp] theorem State.leaveWaitQueue_bootCell (s : State) (e : WaitEntry) : (s.leaveWaitQueue e).bootCell = s.bootCell := rfl
@[simp] theorem State.leaveWaitQueue_running (s : State) (e : WaitEntry) : (s.leaveWaitQueue e).running = s.running := rfl
@[simp] theorem State.leaveWaitQueue_geometry (s : State) (e : WaitEntry) : (s.leaveWaitQueue e).geometry = s.geometry := rfl
@[simp] theorem State.leaveWaitQueue_standingSet (s : State) (e : WaitEntry) : (s.leaveWaitQueue e).standingSet = s.standingSet := rfl
@[simp] theorem State.leaveWaitQueue_report (s : State) (e : WaitEntry) : (s.leaveWaitQueue e).report = s.report := rfl
@[simp] theorem State.leaveWaitQueue_nvOperation (s : State) (e : WaitEntry) : (s.leaveWaitQueue e).nvOperation = s.nvOperation := rfl
@[simp] theorem State.leaveWaitQueue_response (s : State) (e : WaitEntry) : (s.leaveWaitQueue e).response = s.response := rfl
@[simp] theorem State.leaveWaitQueue_alertCauses (s : State) (e : WaitEntry) : (s.leaveWaitQueue e).alertCauses = s.alertCauses := rfl
@[simp] theorem State.leaveWaitQueue_alertMaskBits (s : State) (e : WaitEntry) : (s.leaveWaitQueue e).alertMaskBits = s.alertMaskBits := rfl
@[simp] theorem State.leaveWaitQueue_choices (s : State) (e : WaitEntry) : (s.leaveWaitQueue e).choices = s.choices := rfl
@[simp] theorem State.lease_leaveWaitQueue (s : State) (e : WaitEntry) (j : RecordIndex) : (s.leaveWaitQueue e).lease j = s.lease j := rfl
@[simp] theorem State.slot_leaveWaitQueue (s : State) (e : WaitEntry) (n : HostSlotNumber) : (s.leaveWaitQueue e).slot n = s.slot n := rfl
@[simp] theorem State.policy_leaveWaitQueue (s : State) (e : WaitEntry) (q : Port) : (s.leaveWaitQueue e).policy q = s.policy q := rfl

@[simp] theorem State.orphanSlots_pending (s : State) (p : Port) : (s.orphanSlots p).pending = s.pending := rfl
@[simp] theorem State.orphanSlots_phase (s : State) (p : Port) : (s.orphanSlots p).phase = s.phase := rfl
@[simp] theorem State.orphanSlots_clock (s : State) (p : Port) : (s.orphanSlots p).clock = s.clock := rfl
@[simp] theorem State.orphanSlots_leases (s : State) (p : Port) : (s.orphanSlots p).leases = s.leases := rfl
@[simp] theorem State.orphanSlots_held (s : State) (p : Port) : (s.orphanSlots p).held = s.held := rfl
@[simp] theorem State.orphanSlots_ports (s : State) (p : Port) : (s.orphanSlots p).ports = s.ports := rfl
@[simp] theorem State.orphanSlots_waitQueue (s : State) (p : Port) : (s.orphanSlots p).waitQueue = s.waitQueue := rfl
@[simp] theorem State.orphanSlots_commandServed (s : State) (p : Port) : (s.orphanSlots p).commandServed = s.commandServed := rfl
@[simp] theorem State.orphanSlots_accessServed (s : State) (p : Port) : (s.orphanSlots p).accessServed = s.accessServed := rfl
@[simp] theorem State.orphanSlots_scrubSlot (s : State) (p : Port) : (s.orphanSlots p).scrubSlot = s.scrubSlot := rfl
@[simp] theorem State.orphanSlots_scrubQueue (s : State) (p : Port) : (s.orphanSlots p).scrubQueue = s.scrubQueue := rfl
@[simp] theorem State.orphanSlots_operations (s : State) (p : Port) : (s.orphanSlots p).operations = s.operations := rfl
@[simp] theorem State.orphanSlots_pool (s : State) (p : Port) : (s.orphanSlots p).pool = s.pool := rfl
@[simp] theorem State.orphanSlots_userSlots (s : State) (p : Port) : (s.orphanSlots p).userSlots = s.userSlots := rfl
@[simp] theorem State.orphanSlots_bootCell (s : State) (p : Port) : (s.orphanSlots p).bootCell = s.bootCell := rfl
@[simp] theorem State.orphanSlots_running (s : State) (p : Port) : (s.orphanSlots p).running = s.running := rfl
@[simp] theorem State.orphanSlots_geometry (s : State) (p : Port) : (s.orphanSlots p).geometry = s.geometry := rfl
@[simp] theorem State.orphanSlots_standingSet (s : State) (p : Port) : (s.orphanSlots p).standingSet = s.standingSet := rfl
@[simp] theorem State.orphanSlots_report (s : State) (p : Port) : (s.orphanSlots p).report = s.report := rfl
@[simp] theorem State.orphanSlots_nvOperation (s : State) (p : Port) : (s.orphanSlots p).nvOperation = s.nvOperation := rfl
@[simp] theorem State.orphanSlots_response (s : State) (p : Port) : (s.orphanSlots p).response = s.response := rfl
@[simp] theorem State.orphanSlots_alertCauses (s : State) (p : Port) : (s.orphanSlots p).alertCauses = s.alertCauses := rfl
@[simp] theorem State.orphanSlots_alertMaskBits (s : State) (p : Port) : (s.orphanSlots p).alertMaskBits = s.alertMaskBits := rfl
@[simp] theorem State.orphanSlots_choices (s : State) (p : Port) : (s.orphanSlots p).choices = s.choices := rfl
@[simp] theorem State.lease_orphanSlots (s : State) (p : Port) (j : RecordIndex) : (s.orphanSlots p).lease j = s.lease j := rfl
@[simp] theorem State.port_orphanSlots (s : State) (p : Port) (q : Port) : (s.orphanSlots p).port q = s.port q := rfl
@[simp] theorem State.policy_orphanSlots (s : State) (p : Port) (q : Port) : (s.orphanSlots p).policy q = s.policy q := rfl

/-! ## Tables after the named updates -/

@[simp] theorem State.lease_freeRecord (s : State) (i j : RecordIndex) :
    (s.freeRecord i).lease j = if i = j then emptyRecord (s.lease i).generation else s.lease j := by
  simp [State.freeRecord]

@[simp] theorem State.port_commandTaken (s : State) (p q : Port) :
    (s.commandTaken p).port q =
      if p = q then { s.port p with commandQueue := (s.port p).commandQueue.tail } else s.port q :=
  State.port_setPort s p q _

@[simp] theorem State.port_accessTaken (s : State) (p q : Port) :
    (s.accessTaken p).port q =
      if p = q then { s.port p with accessQueue := (s.port p).accessQueue.tail } else s.port q :=
  State.port_setPort s p q _

@[simp] theorem State.port_holdTag (s : State) (p q : Port) (t : CommandTag) :
    (s.holdTag p t).port q =
      if p = q then { s.port p with commandTags := addMember (s.port p).commandTags t.val } else s.port q := by
  simp [State.holdTag]

@[simp] theorem State.port_freeTag (s : State) (p q : Port) (t : CommandTag) :
    (s.freeTag p t).port q =
      if p = q then { s.port p with commandTags := dropMember (s.port p).commandTags t.val } else s.port q := by
  simp [State.freeTag]

@[simp] theorem State.lease_countAdmission (s : State) (i j : RecordIndex) :
    (s.countAdmission i).lease j =
      if i = j then { s.lease i with drainCount := (s.lease i).drainCount + 1 } else s.lease j := by
  simp [State.countAdmission]

@[simp] theorem State.slot_orphanSlots (s : State) (p : Port) (n : HostSlotNumber) :
    (s.orphanSlots p).slot n =
      (s.slot n).map (fun y => if y.port = p then { y with orphaned := true } else y) := by
  simp [State.slot, State.orphanSlots]

end Sys2Proof.Machine
end

