-- ==== Sys2Proof/Laws/Ops.lean ====
section
/-! SUPPORT. One lemma for each shared operation that says once everything the operation can do, and the ways in
which a property is carried through an event: through a list of effects, through `settle` and through a step. -/

namespace Sys2Proof.Machine

/-! ## Work -/

@[simp] theorem Work.start_st (s : State) : (Work.start s).st = s := rfl
@[simp] theorem Work.start_overflowed (s : State) : (Work.start s).overflowed = [] := rfl
@[simp] theorem Work.start_ending (s : State) : (Work.start s).ending = [] := rfl
@[simp] theorem Work.start_scanDue (s : State) : (Work.start s).scanDue = false := rfl
@[simp] theorem Work.onState_st (w : Work) (f : State → State) : (w.onState f).st = f w.st := rfl
@[simp] theorem Work.onState_overflowed (w : Work) (f : State → State) : (w.onState f).overflowed = w.overflowed := rfl
@[simp] theorem Work.onState_ending (w : Work) (f : State → State) : (w.onState f).ending = w.ending := rfl
@[simp] theorem Work.onState_scanDue (w : Work) (f : State → State) : (w.onState f).scanDue = w.scanDue := rfl
@[simp] theorem Work.needScan_st (w : Work) : w.needScan.st = w.st := rfl
@[simp] theorem Work.needScan_scanDue (w : Work) : w.needScan.scanDue = true := rfl
@[simp] theorem Work.needScan_overflowed (w : Work) : w.needScan.overflowed = w.overflowed := rfl
@[simp] theorem Work.needScan_ending (w : Work) : w.needScan.ending = w.ending := rfl

@[simp] theorem Work.overflow_st (w : Work) (p : Port) : (w.overflow p).st = w.st := by
  unfold Work.overflow; split <;> rfl

@[simp] theorem Work.endFence_st (w : Work) (p : Port) : (w.endFence p).st = w.st := by
  unfold Work.endFence; split <;> rfl

/-! ## Packets -/

/-- A packet for a list with room joins its end, and nothing else changes. -/
theorem Work.send_of_room (w : Work) (p : Port) (k : OutPacket) (h : (w.st.port p).outbound.length < 128) :
    w.send p k =
      w.onState (fun s => s.setPort p { w.st.port p with outbound := (w.st.port p).outbound ++ [k] }) := by
  simp [Work.send, h]

/-- A packet for a full list changes no state. -/
theorem Work.send_st_of_full (w : Work) (p : Port) (k : OutPacket) (h : ¬ (w.st.port p).outbound.length < 128) :
    (w.send p k).st = w.st := by
  simp only [Work.send, h, if_false]; split <;> simp

/-- All that a packet produced can do to the state. -/
theorem Work.send_st_cases (w : Work) (p : Port) (k : OutPacket) :
    (w.send p k).st = w.st ∨
      ((w.st.port p).outbound.length < 128 ∧
        (w.send p k).st = w.st.setPort p { w.st.port p with outbound := (w.st.port p).outbound ++ [k] }) := by
  by_cases h : (w.st.port p).outbound.length < 128
  · exact .inr ⟨h, by rw [Work.send_of_room w p k h]; rfl⟩
  · exact .inl (Work.send_st_of_full w p k h)

/-! ## Notifications -/

/-- All that a delivery can do: nothing with no pending entry, else the oldest entry goes in flight and its NOTICE is
produced. -/
theorem Work.deliver_cases (w : Work) (p : Port) :
    ((w.st.port p).unit.entries = [] ∧ w.deliver p = w) ∨
      ∃ e rest, (w.st.port p).unit.entries = e :: rest ∧
        w.deliver p =
          (w.onState (fun s =>
            s.setPort p
              { w.st.port p with
                unit :=
                  { entries := rest
                    inFlight := some ⟨nextSequence (w.st.port p).unit.sequence, e.handle, e.event, 0⟩
                    sequence := nextSequence (w.st.port p).unit.sequence
                    ackTimer := some (w.st.after (w.st.policy p).ackTimeout) } })).send p
            (.notice (nextSequence (w.st.port p).unit.sequence) e.handle e.event) := by
  unfold Work.deliver
  cases h : (w.st.port p).unit.entries with
  | nil => exact .inl ⟨rfl, by simp only [h]⟩
  | cons e rest => exact .inr ⟨e, rest, rfl, by simp only [h]⟩

/-- All that an event can do at a notification unit (R127, R128). -/
theorem Work.raise_cases (w : Work) (p : Port) (h : Handle) (e : NoticeEvent) :
    w.raise p h e = w ∨
      ((w.st.port p).state = .online ∧
        w.raise p h e =
          w.onState (fun s =>
            s.setPort p
              { w.st.port p with
                unit := { (w.st.port p).unit with entries := replaceEntry h e (w.st.port p).unit.entries } })) ∨
      ((w.st.port p).state = .online ∧ (w.st.port p).unit.entries.length < 64 ∧
        ∃ w', w' =
            w.onState (fun s =>
              s.setPort p
                { w.st.port p with
                  unit := { (w.st.port p).unit with entries := (w.st.port p).unit.entries ++ [⟨h, e⟩] } }) ∧
          (w.raise p h e = w' ∨ w.raise p h e = w'.deliver p)) ∨
      ((w.st.port p).state = .online ∧ w.raise p h e = w.overflow p) := by
  unfold Work.raise
  by_cases ho : (w.st.port p).state = .online
  · simp only [ho, ne_eq, not_true_eq_false, if_false, true_and]
    split
    · exact .inr (.inl rfl)
    · split
      · rename_i hl
        refine .inr (.inr (.inl ⟨hl, _, rfl, ?_⟩))
        split
        · exact .inr rfl
        · exact .inl rfl
      · exact .inr (.inr (.inr rfl))
  · exact .inl (by simp [ho])

/-! ## Scrub queue and lease table -/

/-- All that an extent's joining can do: the queue grows by it, and the engine may issue a zero-fill of it. -/
theorem State.joinScrubQueue_cases (s : State) (e : Extent) :
    s.joinScrubQueue e = { s with scrubQueue := s.scrubQueue ++ [e] } ∨
      (s.scrubQueue = [] ∧ s.phase = .ready ∧ s.scrubSlot = none ∧
        s.joinScrubQueue e = { s with scrubQueue := [e], scrubSlot := some e.base }) := by
  unfold State.joinScrubQueue
  split
  · rename_i h
    exact .inr ⟨h.1, h.2.1, h.2.2, by simp [State.issueZeroFill, h.1]⟩
  · exact .inl rfl

/-- All that a retirement step can do (R86 to R88). -/
theorem Work.retire_cases (w : Work) (i : RecordIndex) :
    (w.st.needsScrub (w.st.lease i) = false ∧ w.retire i = (w.onState (fun s => s.freeRecord i)).needScan) ∨
      (w.st.needsScrub (w.st.lease i) = true ∧ w.st.scrubQueue.length < 512 ∧
        w.retire i =
          (w.onState (fun s => (s.freeRecord i).joinScrubQueue (w.st.lease i).extent)).needScan) ∨
      (w.st.needsScrub (w.st.lease i) = true ∧ 512 ≤ w.st.scrubQueue.length ∧
        w.retire i =
          w.onState (fun s =>
            { s.setLease i { w.st.lease i with retireHeld := true } with held := s.held ++ [i] })) := by
  unfold Work.retire
  by_cases hn : w.st.needsScrub (w.st.lease i) = true
  · by_cases hl : w.st.scrubQueue.length < 512
    · exact .inr (.inl ⟨hn, hl, by simp [hn, hl]⟩)
    · exact .inr (.inr ⟨hn, by omega, by simp [hn, hl]⟩)
  · exact .inl ⟨by simpa using hn, by simp [hn]⟩

/-- A lease that enters DRAINING waits for its accesses, or makes its retirement step at once (R84). -/
theorem Work.drain_cases (w : Work) (i : RecordIndex) (c : RevokeCause) :
    ∃ w', w' = w.onState (fun s => s.setLease i ((s.lease i).toDraining c)) ∧
      ((w.drain i c = w' ∧ (w.st.lease i).drainCount ≠ 0) ∨
        (w.drain i c = w'.retire i ∧ (w.st.lease i).drainCount = 0)) := by
  refine ⟨_, rfl, ?_⟩
  unfold Work.drain
  by_cases h : (w.st.lease i).drainCount = 0
  · exact .inr ⟨by simp [h, LeaseRecord.toDraining], h⟩
  · exact .inl ⟨by simp [h, LeaseRecord.toDraining], h⟩

/-- A holder's removal leaves the lease in its state, or drains it when it was the last (R75). -/
theorem Work.removeHolder_cases (w : Work) (i : RecordIndex) (p : Port) (c : RevokeCause) :
    ∃ w', w' = w.onState (fun s => s.setLease i ((s.lease i).withoutHolder p)) ∧
      (((w'.st.lease i).holders ≠ [] ∧ w.removeHolder i p c = w') ∨
        ((w'.st.lease i).holders = [] ∧ w.removeHolder i p c = w'.drain i c)) := by
  refine ⟨_, rfl, ?_⟩
  unfold Work.removeHolder
  by_cases h : ((w.onState (fun s => s.setLease i ((s.lease i).withoutHolder p))).st.lease i).holders = []
  · exact .inr ⟨h, by simp only [h, if_true]⟩
  · exact .inl ⟨h, by simp only [h, if_false]⟩

/-! ## Scans -/

/-- All that one entry of a scan can meet (R66): it is sent away, it stays, or it is granted. -/
theorem Work.scanEntry_cases (w : Work) (older : List WaitEntry) (e : WaitEntry) :
    w.scanEntry older e = (true, w) ∨
      (∃ a, w.scanEntry older e =
        (false, (w.onState (fun s => s.freeTag e.port e.tag)).respond e.port e.tag a)) ∨
      (∃ i, w.st.lowestFree = some i ∧ w.st.conflicts e.kind e.extent = false ∧ blocked older e.extent = false ∧
        w.st.withinReach e.port e.extent = true ∧ w.st.quotaAllows e.port e.count = true ∧
        w.scanEntry older e =
          (false, (w.onState (fun s => s.freeTag e.port e.tag)).grant i e.port e.tag e.kind e.extent e.term)) := by
  unfold Work.scanEntry
  split
  · exact .inr (.inl ⟨_, rfl⟩)
  · rename_i hr
    split
    · exact .inr (.inl ⟨_, rfl⟩)
    · rename_i hq
      split
      · exact .inl rfl
      · rename_i hb
        cases hf : w.st.lowestFree with
        | none => exact .inl (by simp only)
        | some i =>
          by_cases hc : w.st.conflicts e.kind e.extent = true
          · exact .inl (by simp only [hc, if_true])
          · refine .inr (.inr ⟨i, rfl, by simpa using hc, by simpa using hb, by simpa using hr, by simpa using hq, ?_⟩)
            simp only [hc, Bool.false_eq_true, if_false]

/-- A property of the event that each entry's steps keep is kept by the whole list of entries. -/
theorem Work.scanEntries_keeps {Q : Work → Prop}
    (hentry : ∀ w older e, Q w → Q (w.scanEntry older e).2) :
    ∀ (l : List WaitEntry) (w : Work) (older : List WaitEntry), Q w → Q (w.scanEntries older l).2 := by
  intro l
  induction l with
  | nil => intro w older h; exact h
  | cons e rest ih =>
    intro w older h
    have h' := hentry w older e h
    unfold Work.scanEntries
    revert h'
    cases w.scanEntry older e with
    | mk b w' => cases b <;> intro h' <;> exact ih _ _ h'

/-- The entries that stay after a scan are a sublist of those before it. -/
theorem Work.scanEntries_sublist :
    ∀ (l : List WaitEntry) (w : Work) (older : List WaitEntry), ((w.scanEntries older l).1).Sublist (older ++ l) := by
  intro l
  induction l with
  | nil => intro w older; simp [Work.scanEntries]
  | cons e rest ih =>
    intro w older
    unfold Work.scanEntries
    cases w.scanEntry older e with
    | mk b w' =>
      cases b
      · exact (ih w' older).trans (List.Sublist.append_left (List.sublist_cons_self e rest) older)
      · simpa using ih w' (older ++ [e])

/-- A scan of an empty wait queue changes nothing (R65). -/
theorem Work.scan_of_empty (w : Work) (h : w.st.waitQueue = []) : w.scan = { w with scanDue := false } := by
  unfold Work.scan
  rw [h]
  cases w with
  | mk st o e d => cases st; simp_all [Work.scanEntries]

/-! ## Carrying a property through an event -/

/-- A list of effects keeps what each effect keeps. -/
theorem foldl_keeps {α β : Type} {Q : α → Prop} (f : α → β → α) (h : ∀ a b, Q a → Q (f a b)) :
    ∀ (l : List β) (a : α), Q a → Q (l.foldl f a) := by
  intro l
  induction l with
  | nil => intro a ha; exact ha
  | cons b rest ih => intro a ha; exact ih _ (h a b ha)

/-- An event with nothing due is over. -/
@[simp] theorem Work.settle_quiet (s : State) : Work.settle ⟨s, [], [], false⟩ = s := rfl

/-- What is due at the end of an event keeps every property that fences, scans, fence ends and the counter of choices
keep. -/
theorem Work.settle_keeps {P : State → Prop} (hchoices : ∀ s n, P s → P { s with choices := n })
    (hfence : ∀ w p c h, P w.st → P (Work.fenceStart w p c h).st) (hscan : ∀ w, P w.st → P (Work.scan w).st)
    (hend : ∀ w p, P w.st → P (Work.fenceEnd w p).st) (w : Work) (h : P w.st) : P w.settle := by
  have hover : ∀ w : Work, P w.st → P w.fenceOverflowed.st := by
    intro w h
    unfold Work.fenceOverflowed
    exact foldl_keeps (Q := fun x : Work => P x.st) _ (fun a p ha => hfence a p _ _ ha) _ _ (hchoices _ _ h)
  have hends : ∀ w : Work, P w.st → P w.endFences.st := by
    intro w h
    unfold Work.endFences
    exact foldl_keeps (Q := fun x : Work => P x.st) _ (fun a p ha => hend a p ha) _ _ h
  have key : ∀ (n : Nat) (w : Work), P w.st → P (w.settleWithin n) := by
    intro n
    induction n with
    | zero => intro w h; exact h
    | succ n ih =>
      intro w h
      unfold Work.settleWithin
      split
      · exact h
      · have h1 := hover w h
        have h2 : P (if w.fenceOverflowed.scanDue then w.fenceOverflowed.scan else w.fenceOverflowed).st := by
          split
          · exact hscan _ h1
          · exact h1
        extract_lets w1 w2
        split
        · exact ih _ (hends _ h2)
        · exact ih _ h2
  exact key 8 w h

/-- An event that occurs answers the state it settles in. -/
theorem Work.done_eq_next_iff (w : Work) (t : State) : w.done = .next t ↔ t = w.settle := by
  unfold Work.done
  constructor
  · intro h; injection h with h; exact h.symm
  · intro h; rw [h]

/-- A property that does not look at the queue and that every command keeps is kept by every step. -/
theorem step_keeps {P : State → Prop} (hpending : ∀ s l, P s → P { s with pending := l })
    (hexec : ∀ c s t, P s → exec c s = .next t → P t) (s t : State) (h : P s) (hs : step s = .next t) : P t := by
  unfold step at hs
  cases hp : s.pending with
  | nil => rw [hp] at hs; injection hs with hs; exact hs ▸ h
  | cons c rest => rw [hp] at hs; exact hexec c _ t (hpending s rest h) hs

/-! ## What the shared frames of the steps do -/

/-- A taking of a lease command that answers a next state: a command of the row stood at the head of the port whose
turn it was. -/
theorem takeCommand_next {act : Port → CommandTag → LeaseCommand → Option (Work → Work)} {s t : State}
    (h : takeCommand act s = .next t) :
    ∃ p c f, s.nextCommand = some (p, c) ∧ act p c.tag c.command = some f ∧
      t = (withFreeTag p c.tag f (.start (s.commandTaken p))).settle := by
  unfold takeCommand at h
  cases hn : s.nextCommand with
  | none => simp [hn] at h
  | some pc =>
    obtain ⟨p, c⟩ := pc
    simp only [hn] at h
    cases ha : act p c.tag c.command with
    | none => simp [ha] at h
    | some f => exact ⟨p, c, f, rfl, ha, by simpa [ha, Work.done_eq_next_iff] using h⟩

/-- A taking of a command of the row with a free tag is the row's action. -/
theorem takeCommand_free {act : Port → CommandTag → LeaseCommand → Option (Work → Work)} {s : State} {p : Port}
    {tag : CommandTag} {x : LeaseCommand} {f : Work → Work} (hn : s.nextCommand = some (p, ⟨tag, x⟩))
    (ha : act p tag x = some f) (ht : s.tagOutstanding p tag = false) :
    takeCommand act s = .next (f (.start (s.commandTaken p))).settle := by
  have ht' : (s.commandTaken p).tagOutstanding p tag = false := by simpa [State.tagOutstanding] using ht
  simp [takeCommand, hn, ha, withFreeTag, ht', Work.done]

/-- A service request that answers a next state. -/
theorem service_next {code : Byte} {act : Work → Work × ServiceResult × List Byte} {s t : State}
    (h : service code act s = .next t) :
    (s.phase ≠ .ready ∧ t = s) ∨
      (s.phase = .ready ∧
        t = ((act (.start s)).1.onState
          (fun u => u.putResponse code (act (.start s)).2.1 (act (.start s)).2.2)).settle) := by
  unfold service at h
  by_cases hr : s.phase = .ready
  · exact .inr ⟨hr, by simpa [hr, Work.done_eq_next_iff] using h⟩
  · exact .inl ⟨hr, by simpa [hr, eq_comm] using h⟩

/-- A service request that a ready part takes. -/
theorem service_ready {code : Byte} {act : Work → Work × ServiceResult × List Byte} {s : State}
    (h : s.phase = .ready) :
    service code act s =
      .next ((act (.start s)).1.onState
        (fun u => u.putResponse code (act (.start s)).2.1 (act (.start s)).2.2)).settle := by
  simp [service, h, Work.done]

/-- An arrival that answers a next state: the packet was discarded, or its row acted on it. -/
theorem arrival_next {p : Port} {k : RawPacket} {act : Packet → Option (Host.Outcome State Fault Refusal)}
    {s t : State} (h : arrival p k act s = .next t) :
    (s.port p).lineUp = true ∧
      (t = s ∨ (s.phase = .ready ∧ ∃ x o, decodePacket k = some x ∧ act x = some o ∧ o = .next t)) := by
  unfold arrival at h
  by_cases hl : (s.port p).lineUp = true
  · refine ⟨hl, ?_⟩
    simp only [hl, Bool.true_eq_false, if_false] at h
    by_cases hr : s.phase = .ready
    · simp only [hr, ne_eq, not_true_eq_false, if_false] at h
      cases hd : decodePacket k with
      | none => rw [hd] at h; left; injection h with h; exact h.symm
      | some x =>
        rw [hd] at h
        simp only at h
        cases ha : act x with
        | none => simp [ha] at h
        | some o => exact .inr ⟨hr, x, o, rfl, ha, by simpa [ha] using h⟩
    · simp only [hr, ne_eq, not_false_eq_true, if_true] at h
      left; injection h with h; exact h.symm
  · simp [hl] at h

end Sys2Proof.Machine
end

