-- ==== Sys2Proof/Laws/Events.lean ====
section
/-! SUPPORT. The composite effects of an event, each said once: what it is made of, and that it keeps whatever its
parts keep. Then the lemmas of the access path, the scrub engine and the memory controller. -/

namespace Sys2Proof.Machine

/-! ## Lists of effects on the lease table -/

/-- Raising an event for each holder keeps what each raising keeps. -/
theorem Work.raiseHolders_keeps {Q : Work → Prop} (hraise : ∀ w p h e, Q w → Q (Work.raise w p h e)) (w : Work)
    (i : RecordIndex) (e : NoticeEvent) (h : Q w) : Q (w.raiseHolders i e) :=
  foldl_keeps _ (fun a b ha => hraise a b.port _ e ha) _ _ h

/-- Taking every holder away keeps what each removal, each raising and the entry to DRAINING keep. -/
theorem Work.revokeAll_keeps {Q : Work → Prop} (hraise : ∀ w p h e, Q w → Q (Work.raise w p h e))
    (hremove : ∀ w i p, Q w → Q (Work.onState w (fun s => s.setLease i ((s.lease i).withoutHolder p))))
    (hdrain : ∀ w i c, Q w → Q (Work.drain w i c)) (w : Work) (i : RecordIndex) (h : Q w) : Q (w.revokeAll i) :=
  hdrain _ i .forced (foldl_keeps _ (fun a b ha => hraise _ _ _ _ (hremove a i b.port ha)) _ _ h)

/-- The lease table's part of a fence start keeps what taking a port off a record and a retirement step keep. -/
theorem Work.fenceLeases_keeps {Q : Work → Prop}
    (hoff : ∀ w i p, Q w → Q (Work.onState w (fun s => s.setLease i ((s.lease i).fenceOff p))))
    (hretire : ∀ w i, Q w → Q (Work.retire w i))
    (hchoices : ∀ (w : Work) (f : State → Nat), Q w → Q (Work.onState w (fun s => { s with choices := f s }))) (w : Work) (p : Port) (h : Q w) :
    Q (w.fenceLeases p) := by
  unfold Work.fenceLeases
  exact hchoices _ _ (foldl_keeps _ (fun a b ha => hretire a b ha) _ _
    (foldl_keeps _ (fun a b ha => hretire a b ha) _ _ (foldl_keeps _ (fun a b ha => hoff a b p ha) _ _ h)))

/-- A fence start is the port's own part, the lease table's, the wait queue's and the access path's, with a scan due;
the fence ends in the same event when the port holds no slot (R146). -/
theorem Work.fenceStart_eq (w : Work) (p : Port) (c : FenceCause) (hello : Option HostId) :
    ∃ w1 w2 w3, w1 = w.onState (fun s => (s.setPort p ((s.port p).fence c hello)).setAlert (.portFenced p)) ∧
      w2 = w1.fenceLeases p ∧
      w3 = ((w2.onState (fun s => { s with waitQueue := s.waitQueue.filter (fun e => decide (e.port ≠ p)) })).onState
        (fun s => s.orphanSlots p)).needScan ∧
      w.fenceStart p c hello = if w3.st.slotsOf p = [] then w3.endFence p else w3 :=
  ⟨_, _, _, rfl, rfl, rfl, rfl⟩

/-- The state after a fence start is the state after the access path's part of it. -/
theorem Work.fenceStart_st (w : Work) (p : Port) (c : FenceCause) (hello : Option HostId) :
    (w.fenceStart p c hello).st =
      State.orphanSlots
        { ((w.onState (fun s => (s.setPort p ((s.port p).fence c hello)).setAlert (.portFenced p))).fenceLeases p).st with
          waitQueue :=
            ((w.onState (fun s =>
              (s.setPort p ((s.port p).fence c hello)).setAlert (.portFenced p))).fenceLeases p).st.waitQueue.filter
              (fun e => decide (e.port ≠ p)) } p := by
  obtain ⟨w1, w2, w3, rfl, rfl, rfl, h⟩ := Work.fenceStart_eq w p c hello
  rw [h]
  split
  · exact Work.endFence_st _ _
  · rfl

/-- All that an entry to ONLINE can do to the state (R144): the port's record, and a WELCOME where the list has
room. -/
theorem Work.enterOnline_st_cases (w : Work) (p : Port) (host : HostId) :
    ∃ t, t = w.st.setPort p ((w.st.port p).goOnline host) ∧
      ((w.enterOnline p host).st = t ∨
        (w.enterOnline p host).st =
          t.setPort p { t.port p with outbound := (t.port p).outbound ++ [.welcome (t.welcome p)] }) := by
  refine ⟨_, rfl, ?_⟩
  unfold Work.enterOnline
  rcases Work.send_st_cases (w.onState (fun s => s.setPort p ((s.port p).goOnline host))) p
    (.welcome ((w.onState (fun s => s.setPort p ((s.port p).goOnline host))).st.welcome p)) with h | ⟨-, h⟩
  · exact .inl h
  · exact .inr h

/-- All that a fence end can do (R148): nothing to a port that is not FENCING; else DOWN, LINKED or ONLINE. -/
theorem Work.fenceEnd_cases (w : Work) (p : Port) :
    w.fenceEnd p = w ∨
      ((w.st.port p).state = .fencing ∧ (w.st.port p).linkFlag = false ∧
        w.fenceEnd p = w.onState (fun s => s.setPort p { w.st.port p with state := .down })) ∨
      ((w.st.port p).state = .fencing ∧ (w.st.port p).linkFlag = true ∧ (w.st.port p).helloPending = none ∧
        w.fenceEnd p = w.onState (fun s => s.setPort p { w.st.port p with state := .linked })) ∨
      ∃ host, (w.st.port p).state = .fencing ∧ (w.st.port p).linkFlag = true ∧
        (w.st.port p).helloPending = some host ∧ w.fenceEnd p = w.enterOnline p host := by
  unfold Work.fenceEnd
  by_cases hs : (w.st.port p).state = .fencing
  · simp only [hs, ne_eq, not_true_eq_false, if_false, true_and]
    by_cases hf : (w.st.port p).linkFlag = false
    · exact .inr (.inl ⟨hf, by simp only [hf, if_true]⟩)
    · have hf' : (w.st.port p).linkFlag = true := by simpa using hf
      cases hp : (w.st.port p).helloPending with
      | none => exact .inr (.inr (.inl ⟨hf', rfl, by simp only [hf', Bool.true_eq_false, if_false]⟩))
      | some host => exact .inr (.inr (.inr ⟨host, hf', rfl, by simp only [hf', Bool.true_eq_false, if_false]⟩))
  · exact .inl (by simp [hs])

/-- A drained access lowers the count, and a DRAINING lease that it drains makes its retirement step (R117). -/
theorem Work.drainOne_cases (w : Work) (i : RecordIndex) :
    ∃ w', w' = w.onState (fun s => s.setLease i { s.lease i with drainCount := (s.lease i).drainCount - 1 }) ∧
      ((w.drainOne i = w' ∧ ¬ ((w.st.lease i).state = .draining ∧ (w.st.lease i).drainCount - 1 = 0)) ∨
        (w.drainOne i = w'.retire i ∧ (w.st.lease i).state = .draining ∧ (w.st.lease i).drainCount - 1 = 0)) := by
  refine ⟨_, rfl, ?_⟩
  unfold Work.drainOne
  by_cases h : (w.st.lease i).state = .draining ∧ (w.st.lease i).drainCount - 1 = 0
  · exact .inr ⟨by simp [h], h⟩
  · exact .inl ⟨by simp only [Work.onState_st, State.lease_setLease, if_true, h, if_false], h⟩

/-- The admission lookup admits under the lowest-index record that admits (R37, step 1). -/
theorem State.admission_admitted {s : State} {p : Port} {k : AccessKind} {g : Nat} {i : RecordIndex}
    (h : s.admission p k g = .admitted i) : (s.lease i).admits p k g = true := by
  unfold State.admission at h
  cases hf : (List.finRange 256).find? (fun i => (s.lease i).admits p k g) with
  | none => rw [hf] at h; simp only at h; split at h <;> (try split at h) <;> (try split at h) <;> simp at h
  | some j =>
    rw [hf] at h
    simp only [Admission.admitted.injEq] at h
    subst h
    have := List.find?_some hf
    exact this

/-- The lowest FREE record is FREE. -/
theorem State.lowestFree_free {s : State} {i : RecordIndex} (h : s.lowestFree = some i) : (s.lease i).state = .free := by
  have := List.find?_some h
  simpa using this

/-- The lowest free host slot is free. -/
theorem State.freeSlot_free {s : State} {k : HostSlotNumber} (h : s.freeSlot = some k) : s.slot k = none := by
  have := List.find?_some h
  simpa using this

/-- Round robin gives a port that has something waiting. -/
theorem roundRobin_waiting {last p : Port} {waiting : Port → Bool} (h : roundRobin last waiting = some p) :
    waiting p = true := List.find?_some h

/-- The command that is taken next is the head of its port's queue. -/
theorem State.nextCommand_head {s : State} {p : Port} {c : CommandPacket} (h : s.nextCommand = some (p, c)) :
    (s.port p).commandQueue.head? = some c := by
  unfold State.nextCommand at h
  simp only [Option.bind_eq_some_iff, Option.map_eq_some_iff, Prod.mk.injEq] at h
  obtain ⟨q, -, d, hd, rfl, rfl⟩ := h
  exact hd

/-- The access that is taken next is the head of its port's queue. -/
theorem State.nextAccess_head {s : State} {p : Port} {a : Access} (h : s.nextAccess = some (p, a)) :
    (s.port p).accessQueue.head? = some a := by
  unfold State.nextAccess at h
  simp only [Option.bind_eq_some_iff, Option.map_eq_some_iff, Prod.mk.injEq] at h
  obtain ⟨q, -, d, hd, rfl, rfl⟩ := h
  exact hd

/-- A list in an open order is a permutation of the list. -/
theorem anyOrder_perm {α : Type} [DecidableEq α] : ∀ (fuel n : Nat) (l : List α), (anyOrder fuel n l).Perm l := by
  intro fuel
  induction fuel with
  | zero => intro n l; cases l <;> exact .refl _
  | succ fuel ih =>
    intro n l
    cases l with
    | nil => exact .refl _
    | cons x rest =>
      unfold anyOrder
      have hmem : choose n x rest ∈ x :: rest := by
        cases rest with
        | nil => simp [choose]
        | cons y ys =>
          simp only [choose, List.getD_eq_getElem?_getD]
          have hlt : Config.choice n % (List.length (y :: ys) + 1) < (x :: y :: ys).length :=
            Nat.mod_lt _ (by simp)
          rw [List.getElem?_eq_getElem hlt]
          exact List.getElem_mem hlt
      exact ((ih (n + 1) _).cons _).trans (List.perm_cons_erase hmem).symm

end Sys2Proof.Machine
end

