-- ==== Sys2Proof/Laws/PerInstr.lean ====
section
/-! SUPPORT. Statements about every step as syntax, one lemma for each constructor. -/

namespace Sys2Proof.Laws.RequestTransfer

set_option Elab.async false

/-- The transfer that carries a well-formed service step is a request transfer: it does not begin with 00h
(R167). -/
def Statement (i : Instr) : Prop :=
  ∀ t, encodeTransfer i = some t → i.wellFormed = true → isRequestTransfer t = true

theorem readArrival (p : Port) (packet : RawPacket) : Statement (.readArrival p packet) := fun _ h _ => nomatch h

theorem writeArrival (p : Port) (packet : RawPacket) : Statement (.writeArrival p packet) := fun _ h _ => nomatch h

theorem commandArrival (p : Port) (packet : RawPacket) : Statement (.commandArrival p packet) := fun _ h _ => nomatch h

theorem noticeAck (p : Port) (packet : RawPacket) : Statement (.noticeAck p packet) := fun _ h _ => nomatch h

theorem hello (p : Port) (packet : RawPacket) : Statement (.hello p packet) := fun _ h _ => nomatch h

theorem linkUp (p : Port) : Statement (.linkUp p) := fun _ h _ => nomatch h

theorem linkLoss (p : Port) : Statement (.linkLoss p) := fun _ h _ => nomatch h

theorem packetSent (p : Port) : Statement (.packetSent p) := fun _ h _ => nomatch h

theorem acquire : Statement .acquire := fun _ h _ => nomatch h

theorem join : Statement .join := fun _ h _ => nomatch h

theorem renew : Statement .renew := fun _ h _ => nomatch h

theorem release : Statement .release := fun _ h _ => nomatch h

theorem convert : Statement .convert := fun _ h _ => nomatch h

theorem cancel : Statement .cancel := fun _ h _ => nomatch h

theorem lookup : Statement .lookup := fun _ h _ => nomatch h

theorem malformedCommand : Statement .malformedCommand := fun _ h _ => nomatch h

theorem waitDeadlineExpiry (p : Port) (tag : CommandTag) : Statement (.waitDeadlineExpiry p tag) := fun _ h _ => nomatch h

theorem holderExpiry (i : RecordIndex) (p : Port) : Statement (.holderExpiry i p) := fun _ h _ => nomatch h

theorem noticeDeadline (i : RecordIndex) : Statement (.noticeDeadline i) := fun _ h _ => nomatch h

theorem readTaking : Statement .readTaking := fun _ h _ => nomatch h

theorem writeTaking : Statement .writeTaking := fun _ h _ => nomatch h

theorem readCompletion (slot : HostSlotNumber) (poolError : Bool) : Statement (.readCompletion slot poolError) := fun _ h _ => nomatch h

theorem writeCompletion (slot : HostSlotNumber) : Statement (.writeCompletion slot) := fun _ h _ => nomatch h

theorem zeroFillCompletion : Statement .zeroFillCompletion := fun _ h _ => nomatch h

theorem ackTimerExpiry (p : Port) : Statement (.ackTimerExpiry p) := fun _ h _ => nomatch h

theorem badFrame (transfer : List Byte) : Statement (.badFrame transfer) := by
  simp [Statement, encodeTransfer, isRequestTransfer, Instr.wellFormed]

theorem badCommand (transfer : List Byte) : Statement (.badCommand transfer) := by
  simp [Statement, encodeTransfer, isRequestTransfer, Instr.wellFormed]

theorem identify : Statement .identify := by
  simp [Statement, encodeTransfer, requestFrame, isRequestTransfer]

theorem status : Statement .status := by
  simp [Statement, encodeTransfer, requestFrame, isRequestTransfer]

theorem alertRead : Statement .alertRead := by
  simp [Statement, encodeTransfer, requestFrame, isRequestTransfer]

theorem alertClear (causes : BitVec 16) : Statement (.alertClear causes) := by
  simp [Statement, encodeTransfer, requestFrame, isRequestTransfer]

theorem alertMask (mask : BitVec 16) : Statement (.alertMask mask) := by
  simp [Statement, encodeTransfer, requestFrame, isRequestTransfer]

theorem portStatus (port : Byte) : Statement (.portStatus port) := by
  simp [Statement, encodeTransfer, requestFrame, isRequestTransfer]

theorem refusalClear (port : Byte) : Statement (.refusalClear port) := by
  simp [Statement, encodeTransfer, requestFrame, isRequestTransfer]

theorem portReset (port : Byte) : Statement (.portReset port) := by
  simp [Statement, encodeTransfer, requestFrame, isRequestTransfer]

theorem leaseRead (index : BitVec 16) : Statement (.leaseRead index) := by
  simp [Statement, encodeTransfer, requestFrame, isRequestTransfer]

theorem leaseNext (granule : BitVec 24) : Statement (.leaseNext granule) := by
  simp [Statement, encodeTransfer, requestFrame, isRequestTransfer]

theorem forceRevoke (handle : Handle) (grace : BitVec 16) : Statement (.forceRevoke handle grace) := by
  simp [Statement, encodeTransfer, requestFrame, isRequestTransfer]

theorem waitRead : Statement .waitRead := by
  simp [Statement, encodeTransfer, requestFrame, isRequestTransfer]

theorem scrubRead : Statement .scrubRead := by
  simp [Statement, encodeTransfer, requestFrame, isRequestTransfer]

theorem deviceReset : Statement .deviceReset := by
  simp [Statement, encodeTransfer, requestFrame, isRequestTransfer]

theorem fieldRead (selector : Selector) : Statement (.fieldRead selector) := by
  simp [Statement, encodeTransfer, requestFrame, isRequestTransfer]

theorem fieldWrite (selector : Selector) (value : BitVec 24) : Statement (.fieldWrite selector value) := by
  simp [Statement, encodeTransfer, requestFrame, isRequestTransfer]

theorem profileSave (slot : Byte) : Statement (.profileSave slot) := by
  simp [Statement, encodeTransfer, requestFrame, isRequestTransfer]

theorem profileLoad (slot : Byte) : Statement (.profileLoad slot) := by
  simp [Statement, encodeTransfer, requestFrame, isRequestTransfer]

theorem bootSelect (slot : Byte) : Statement (.bootSelect slot) := by
  simp [Statement, encodeTransfer, requestFrame, isRequestTransfer]

theorem nvOperationComplete (agrees : Bool) : Statement (.nvOperationComplete agrees) := fun _ h _ => nomatch h

theorem powerOnReset : Statement .powerOnReset := fun _ h _ => nomatch h

theorem resetAssert : Statement .resetAssert := fun _ h _ => nomatch h

theorem resetRelease : Statement .resetRelease := fun _ h _ => nomatch h

theorem becomeReady : Statement .becomeReady := fun _ h _ => nomatch h

theorem leaseClockTick : Statement .leaseClockTick := fun _ h _ => nomatch h

end Sys2Proof.Laws.RequestTransfer
end

