-- ==== Sys2Proof/Laws/Pool.lean ====
section
/-! SUPPORT. The laws of the pool: what is read after a write, and that every operation on the pool keeps its
canonical form. -/

namespace Sys2Proof.Machine

/-! ## Lists by key -/

@[simp] theorem lookupKey_insertKey {α : Type} (k j : Nat) (v : α) (l : List (Nat × α)) (h : keysRise l = true) :
    lookupKey j (insertKey k v l) = if j = k then some v else lookupKey j l := by
  induction l with
  | nil =>
    by_cases hj : j = k
    · simp [insertKey, lookupKey, hj]
    · simp [insertKey, lookupKey, hj, Ne.symm hj]
  | cons c rest ih =>
    obtain ⟨i, w⟩ := c
    have hrest : keysRise rest = true := by
      cases rest with
      | nil => rfl
      | cons d r => obtain ⟨a, b⟩ := d; simp only [keysRise, Bool.and_eq_true] at h; exact h.2
    unfold insertKey
    by_cases hlt : k < i
    · simp only [hlt, if_true, lookupKey]
      by_cases hj : j = k
      · simp [hj]
      · simp [hj, Ne.symm hj]
    · by_cases heq : i = k
      · subst heq
        simp only [Nat.lt_irrefl, if_false, if_true, lookupKey]
        by_cases hj : j = i
        · simp [hj]
        · simp [hj, Ne.symm hj]
      · simp only [hlt, heq, if_false, lookupKey, ih hrest]
        by_cases hi : i = j
        · subst hi; simp [heq]
        · simp [hi]

/-- Every key of a rising list after its head is above the head's. -/
theorem keysRise_cons {α : Type} (i : Nat) (w : α) (l : List (Nat × α)) :
    keysRise ((i, w) :: l) = true ↔ (∀ c ∈ l, i < c.1) ∧ keysRise l = true := by
  induction l generalizing i w with
  | nil => simp [keysRise]
  | cons d r ih =>
    obtain ⟨j, v⟩ := d
    simp only [keysRise, Bool.and_eq_true, decide_eq_true_eq]
    constructor
    · rintro ⟨hij, hr⟩
      refine ⟨?_, hr⟩
      intro c hc
      rcases List.mem_cons.1 hc with rfl | hc
      · exact hij
      · exact Nat.lt_trans hij (((ih j v).1 hr).1 c hc)
    · rintro ⟨h, hr⟩
      exact ⟨h (j, v) (List.mem_cons_self ..), hr⟩

/-- The keys of a list with one key put in are the old ones and that one. -/
theorem mem_insertKey {α : Type} {k : Nat} {v : α} {l : List (Nat × α)} {c : Nat × α} (h : c ∈ insertKey k v l) :
    c = (k, v) ∨ c ∈ l := by
  induction l with
  | nil => simpa [insertKey] using h
  | cons d r ih =>
    obtain ⟨j, w⟩ := d
    unfold insertKey at h
    split at h
    · simpa using h
    · split at h
      · rcases List.mem_cons.1 h with h | h
        · exact .inl h
        · exact .inr (List.mem_cons_of_mem _ h)
      · rcases List.mem_cons.1 h with h | h
        · exact .inr (h ▸ List.mem_cons_self ..)
        · rcases ih h with h | h
          · exact .inl h
          · exact .inr (List.mem_cons_of_mem _ h)

/-- A rising list with a key put in its place rises. -/
theorem keysRise_insertKey {α : Type} (k : Nat) (v : α) (l : List (Nat × α)) (h : keysRise l = true) :
    keysRise (insertKey k v l) = true := by
  induction l with
  | nil => rfl
  | cons d r ih =>
    obtain ⟨j, w⟩ := d
    rw [keysRise_cons] at h
    unfold insertKey
    split
    · rename_i hlt
      rw [keysRise_cons, keysRise_cons]
      refine ⟨?_, h⟩
      intro c hc
      rcases List.mem_cons.1 hc with rfl | hc
      · exact hlt
      · exact Nat.lt_trans hlt (h.1 c hc)
    · split
      · rename_i heq
        subst heq
        rw [keysRise_cons]
        exact h
      · rename_i hlt hne
        rw [keysRise_cons]
        refine ⟨?_, ih h.2⟩
        intro c hc
        rcases mem_insertKey hc with rfl | hc
        · show j < k
          omega
        · exact h.1 c hc

/-- A rising list with entries taken out rises. -/
theorem keysRise_filter {α : Type} (f : Nat × α → Bool) (l : List (Nat × α)) (h : keysRise l = true) :
    keysRise (l.filter f) = true := by
  induction l with
  | nil => rfl
  | cons d r ih =>
    obtain ⟨j, w⟩ := d
    rw [keysRise_cons] at h
    rw [List.filter_cons]
    split
    · rw [keysRise_cons]
      exact ⟨fun c hc => h.1 c (List.mem_filter.1 hc).1, ih h.2⟩
    · exact ih h.2

@[simp] theorem lookupKey_removeKey {α : Type} (k j : Nat) (l : List (Nat × α)) :
    lookupKey j (removeKey k l) = if j = k then none else lookupKey j l := by
  induction l with
  | nil => simp [removeKey, lookupKey]
  | cons d r ih =>
    obtain ⟨i, w⟩ := d
    unfold removeKey at ih ⊢
    rw [List.filter_cons]
    by_cases hik : i = k
    · subst hik
      simp only [ne_eq, decide_not, decide_true, Bool.not_true, Bool.false_eq_true, if_false]
      simp only [ne_eq, decide_not] at ih
      rw [ih]
      by_cases hj : j = i
      · simp [hj]
      · simp [hj, lookupKey, Ne.symm hj]
    · simp only [ne_eq, decide_not, hik, decide_false, Bool.not_false, if_true, lookupKey]
      simp only [ne_eq, decide_not] at ih
      rw [ih]
      by_cases hij : i = j
      · subst hij; simp [hik]
      · simp [hij]

/-! ## Canonical form -/

/-- The canonical form, clause by clause. -/
theorem Pool.wf_iff (m : Pool) :
    m.wf = true ↔
      keysRise m.cells = true ∧ keysRise m.backgrounds = true ∧
        (∀ c ∈ m.backgrounds, c.2 ≠ .unknown m.powerOn) ∧
        (∀ c ∈ m.cells, m.background (granuleOf c.1) = .zeroed → c.2 ≠ 0) := by
  simp only [Pool.wf, Bool.and_eq_true, List.all_eq_true, decide_eq_true_eq, Bool.not_eq_true', and_assoc,
    Bool.and_eq_false_imp, decide_eq_false_iff_not]

/-- Storing a byte keeps the canonical form. -/
theorem Pool.writeByte_wf (m : Pool) (a : Nat) (b : Byte) (h : m.wf = true) : (m.writeByte a b).wf = true := by
  rw [Pool.wf_iff] at h ⊢
  obtain ⟨hc, hb, hu, hz⟩ := h
  unfold Pool.writeByte
  split
  · exact ⟨keysRise_filter _ _ hc, hb, hu, fun c hcm => hz c (List.mem_filter.1 hcm).1⟩
  · rename_i hn
    refine ⟨keysRise_insertKey _ _ _ hc, hb, hu, ?_⟩
    intro c hcm hbg
    rcases mem_insertKey hcm with rfl | hcm
    · intro hb0
      exact hn ⟨hbg, hb0⟩
    · exact hz c hcm hbg

/-- Storing bytes keeps the canonical form. -/
theorem Pool.writeBytes_wf (bs : List Byte) (m : Pool) (a : Nat) (h : m.wf = true) : (m.writeBytes a bs).wf = true := by
  induction bs generalizing m a with
  | nil => exact h
  | cons b rest ih => exact ih _ _ (Pool.writeByte_wf m a b h)

/-- The background of a granule after a refill. -/
theorem Pool.background_refill (m : Pool) (g j : Nat) (b : Background) (h : m.wf = true) :
    (m.refill g b).background j = if j = g then b else m.background j := by
  rw [Pool.wf_iff] at h
  unfold Pool.refill Pool.background
  by_cases hb : b = .unknown m.powerOn
  · simp only [hb, if_true, lookupKey_removeKey]
    split <;> rfl
  · simp only [hb, if_false, lookupKey_insertKey g j b _ h.2.1]
    split <;> rfl

/-- A refill keeps the canonical form. -/
theorem Pool.refill_wf (m : Pool) (g : Nat) (b : Background) (h : m.wf = true) : (m.refill g b).wf = true := by
  have hbg := Pool.background_refill m g
  rw [Pool.wf_iff]
  have h' := (Pool.wf_iff m).1 h
  obtain ⟨hc, hb, hu, hz⟩ := h'
  refine ⟨keysRise_filter _ _ hc, ?_, ?_, ?_⟩
  · unfold Pool.refill
    by_cases hb' : b = .unknown m.powerOn
    · simp only [hb', if_true]
      exact keysRise_filter _ _ hb
    · simpa only [hb', if_false] using keysRise_insertKey _ _ _ hb
  · unfold Pool.refill
    by_cases hb' : b = .unknown m.powerOn
    · simp only [hb', if_true]
      exact fun c hcm => hu c (List.mem_filter.1 hcm).1
    · simp only [hb', if_false]
      intro c hcm
      rcases mem_insertKey hcm with rfl | hcm
      · exact hb'
      · exact hu c hcm
  · intro c hcm hz'
    have hm := List.mem_filter.1 hcm
    have hg : granuleOf c.1 ≠ g := by simpa using hm.2
    rw [hbg _ b h, if_neg hg] at hz'
    exact hz c hm.1 hz'

/-- Carrying out a request keeps the canonical form. -/
theorem PoolRequest.carryOut_wf (x : PoolRequest) (m : Pool) (h : m.wf = true) : (x.carryOut m).1.wf = true := by
  cases x with
  | read a n => exact h
  | write a d => exact Pool.writeBytes_wf d m a.toNat h

/-- The pool right after reset is in canonical form. -/
theorem State.reset_pool_wf : State.reset.pool.wf = true := by decide

/-! ## Reading after writing -/

@[simp] theorem Pool.background_writeByte (m : Pool) (a j : Nat) (b : Byte) :
    (m.writeByte a b).background j = m.background j := by
  unfold Pool.writeByte; split <;> rfl

@[simp] theorem Pool.unlisted_writeByte (m : Pool) (a j : Nat) (b : Byte) :
    (m.writeByte a b).unlisted j = m.unlisted j := by
  simp [Pool.unlisted]

/-- A byte read after a byte is stored: the byte stored at its address, and what was there before elsewhere. -/
theorem Pool.readByte_writeByte (m : Pool) (a j : Nat) (b : Byte) (h : m.wf = true) :
    (m.writeByte a b).readByte j = if j = a then b else m.readByte j := by
  have hc := ((Pool.wf_iff m).1 h).1
  unfold Pool.readByte
  rw [Pool.unlisted_writeByte]
  unfold Pool.writeByte
  split
  · rename_i hz
    simp only [lookupKey_removeKey]
    by_cases hj : j = a
    · subst hj; simp [Pool.unlisted, hz.1, hz.2]
    · simp [hj]
  · simp only [lookupKey_insertKey a j b _ hc]
    by_cases hj : j = a
    · simp [hj]
    · simp [hj]

end Sys2Proof.Machine
end

