-- ==== Sys2Proof/Tests/Slice0.lean ====
section
/-! SUPPORT. Tests of one step each, on small states, and for each statement a witness: a concrete state and operands
that meet its hypotheses. Expected results come from the manual: the worked bytes of Chapter 12, the rules named beside
each test, and hand calculation from them. -/

set_option Elab.async false

namespace Sys2Proof.Tests

open Sys2Proof.Machine Sys2Proof.Safety

/-! ## Helpers -/

/-- The next state of an outcome. -/
def nextOf (o : Host.Outcome State Fault Refusal) : Option State :=
  match o with
  | .next t => some t
  | .fault _ | .refused _ => none

/-- The refusal of an outcome. -/
def refusalOf (o : Host.Outcome State Fault Refusal) : Option Refusal :=
  match o with
  | .refused r => some r
  | .next _ | .fault _ => none

/-- One part of the state after a command. -/
def after {α : Type} (i : Instr) (s : State) (f : State → α) : Option α := (nextOf (exec i s)).map f

/-- A port with a link and no session. -/
def linkedPort : PortRecord := { powerOnPort with state := .linked, linkFlag := true, lineUp := true }

/-- A port in session. -/
def onlinePort : PortRecord := { linkedPort with state := .online, epoch := 1, hostId := 7 }

/-- A port being fenced. -/
def fencingPort : PortRecord := { onlinePort with state := .fencing, fenceCause := some .reset }

/-- A ready part with every port ONLINE, nothing leased and nothing to scrub. -/
def idle : State := { State.reset with phase := .ready, scrubQueue := [], ports := Vector.replicate 4 onlinePort }

/-- The idle part with one port's record changed. -/
def at0 (r : PortRecord) : State := idle.setPort 0 r

/-- The idle part with a command waiting at H0. -/
def told (c : LeaseCommand) (s : State := idle) : State := s.setPort 0 { s.port 0 with commandQueue := [⟨3, c⟩] }

/-- The idle part with an access waiting at H0. -/
def asked (a : Access) (s : State) : State := s.setPort 0 { s.port 0 with accessQueue := [a] }

/-- An EXCLUSIVE lease of H0 over granules 8 to 11. -/
def lease8 : LeaseRecord :=
  { emptyRecord 1 with
    state := .active, kind := some .exclusive, written := true, base := 8, count := 4,
    holders := [⟨0, .readWrite, 100, some 100⟩], creator := some 0 }

/-- A SHARED lease of H1 over granules 20 and 21. -/
def lease20 : LeaseRecord :=
  { emptyRecord 1 with
    state := .active, kind := some .shared, base := 20, count := 2, holders := [⟨1, .read, 0, none⟩],
    creator := some 1 }

/-- The idle part with `lease8` in L0 and `lease20` in L1. -/
def leased : State := (idle.setLease 0 lease8).setLease 1 lease20

/-- A lease given notice, its deadline at 50. -/
def noticed (r : LeaseRecord) : LeaseRecord :=
  { r with state := .notice, notice := some ⟨.forced, 50⟩, revokeCause := some .forced }

/-- The leased part with H0 as a second holder of L1, its deadline at 100. -/
def shared : State := leased.setLease 1 { lease20 with holders := [⟨1, .read, 0, none⟩, ⟨0, .read, 100, some 100⟩] }

/-- A waiting EXCLUSIVE request of H2 for granules 8 to 9. -/
def waiter : WaitEntry := ⟨2, 5, .exclusive, 8, 2, 30, 60⟩

/-- The leased part with `waiter` in the queue. -/
def waiting : State :=
  { leased.setPort 2 { onlinePort with commandTags := 0x20 } with waitQueue := [waiter] }

/-- The first byte of granule 8, and of granule 20. -/
def byte8 : PoolAddress := 0x800000

/-- The first byte of granule 20. -/
def byte20 : PoolAddress := 0x1400000

/-- A READ of 8 bytes of granule 8 in host slot 0. -/
def reading : HostSlot := ⟨0, 1, .read 9, byte8, 8, 0, false⟩

/-- The leased part with `reading` in flight. -/
def inFlight : State :=
  ({ leased.setSlot 0 (some reading) with operations := [⟨0, .read byte8 8, none⟩] }.setLease 0
    { lease8 with drainCount := 1 }).setPort 0 { onlinePort with readTags := 0x200 }

/-- The same with L0 in DRAINING. -/
def drainingFlight : State := inFlight.setLease 0 { drainingRecord lease8 .fenced with drainCount := 1 }

/-- The same with a WRITE of eight bytes FFh in its place. -/
def writing : State :=
  { leased.setSlot 0 (some { reading with kind := .write }) with
    operations := [⟨0, .write byte8 (List.replicate 8 0xFF), none⟩] }.setLease 0 { lease8 with drainCount := 1 }

/-- Two granules to scrub, the first in flight. -/
def scrubbing : State := { idle with scrubQueue := [⟨40, 2⟩], scrubSlot := some 40 }

/-- A hundred and twenty-eight packets. -/
def fullList : List OutPacket := List.replicate 128 (.response 0 .ok)

/-- The standing entry 5: COMMON over granules 100 to 109, H0 with READ_WRITE and H1 with READ. -/
def commonEntry : StandingEntry :=
  { used := true, base := 100, count := 10, kind := .common, rights := #v[.readWrite, .read, .none, .none],
    scrub := true }

/-- The factory profile with `commonEntry` as entry 5. -/
def standingProfile : Profile := { factoryProfile with standing := factoryProfile.standing.set 5 commonEntry }

/-! ## Syntax that cannot occur -/

theorem test_wellFormed_refuses_long_body :
    (Instr.readArrival 0 ⟨1, List.replicate 65536 0⟩).wellFormed = false := by
  show decide ((List.replicate 65536 (0 : Byte)).length < 65536) = false
  rw [List.length_replicate]; decide

theorem test_wellFormed_takes_longest_body :
    (Instr.hello 0 ⟨5, List.replicate 65535 0⟩).wellFormed = true := by
  show decide ((List.replicate 65535 (0 : Byte)).length < 65536) = true
  rw [List.length_replicate]; decide

theorem test_wellFormed_refuses_read_transfer :
    (Instr.badFrame [0, 0, 0]).wellFormed = false ∧ (Instr.badCommand [0]).wellFormed = false ∧
      (Instr.badFrame [1, 0]).wellFormed = true := by decide

/-! ## Encodings, written out from Chapter 12 -/

/-- The check value of CRC-8 with polynomial 07h over the digits 1 to 9 is F4h. -/
theorem test_crc8 : crc8 [0x31, 0x32, 0x33, 0x34, 0x35, 0x36, 0x37, 0x38, 0x39] = 0xF4 := by decide +kernel

/-- The check value of CRC-32 over the digits 1 to 9 is CBF43926h. -/
theorem test_crc32 : crc32 [0x31, 0x32, 0x33, 0x34, 0x35, 0x36, 0x37, 0x38, 0x39] = 0xCBF43926 := by decide +kernel

theorem test_decode_read :
    decodePacket ⟨0x01, [0x1F, 0x08, 0x00, 0x10, 0x80, 0x0F, 0x00, 0x01]⟩ =
      some (.access (.read 31 0xF80100008 256)) := by decide +kernel

theorem test_decode_write :
    decodePacket ⟨0x02, [0x00, 0x00, 0x80, 0x00, 0x00, 0x02, 0x00, 0xAB, 0xCD]⟩ =
      some (.access (.write 0x800000 2 [0xAB, 0xCD])) := by decide +kernel

theorem test_decode_acquire :
    decodePacket ⟨0x03, [0x07, 0x01, 0x02, 0x34, 0x12, 0x00, 0x00, 0x01, 0x10, 0x27, 0xE8, 0x03]⟩ =
      some (.command ⟨7, .acquire 2 0x1234 65536 10000 1000⟩) := by decide +kernel

theorem test_decode_join_and_release :
    decodePacket ⟨0x03, [0x00, 0x02, 0xFF, 0x34, 0x12, 0x05, 0x00]⟩ = some (.command ⟨0, .join ⟨255, 0x1234⟩ 5⟩) ∧
      decodePacket ⟨0x03, [0x01, 0x04, 0x00, 0x01, 0x00]⟩ = some (.command ⟨1, .release ⟨0, 1⟩⟩) := by decide +kernel

theorem test_decode_ack_and_hello :
    decodePacket ⟨0x04, [0x01, 0x80]⟩ = some (.noticeAck 0x8001) ∧
      decodePacket ⟨0x05, [0x78, 0x56, 0x34, 0x12]⟩ = some (.hello 0x12345678) := by decide +kernel

theorem test_decode_malformed :
    decodePacket ⟨0x01, [0x20, 0, 0, 0, 0, 0, 8, 0]⟩ = none ∧ decodePacket ⟨0x01, [0, 0, 0, 0, 0, 0x10, 8, 0]⟩ = none ∧
      decodePacket ⟨0x06, []⟩ = none ∧ decodePacket ⟨0x03, [0x08, 0x06, 0x01]⟩ = none := by decide +kernel

/-- The frames of STATUS, PORT_STATUS of H1 and FORCE_REVOKE of L2 with generation 0103h and grace 10: the CRC-8 bytes
are calculated by hand from the polynomial. -/
theorem test_decode_frames :
    decodeTransfer (requestFrame 0x02 []) = some .status ∧
      decodeTransfer (requestFrame 0x06 [0x01]) = some (.portStatus 1) ∧
      decodeTransfer (requestFrame 0x0B [0x02, 0x03, 0x01, 0x0A, 0x00]) = some (.forceRevoke ⟨2, 0x0103⟩ 10) ∧
      decodeTransfer [0x02, 0x00, 0x2A] = some .status ∧
      decodeTransfer [0x06, 0x01, 0x01, 0x6F] = some (.portStatus 1) ∧
      decodeTransfer [0x02, 0x00, 0x2B] = some (.badFrame [0x02, 0x00, 0x2B]) ∧
      decodeTransfer [0x00, 0x00] = none := by decide +kernel

theorem test_no_table_word : decodeTableWord 8 0 = none ∧ (idle.withFetchWord 8 0) = idle := ⟨rfl, rfl⟩

/-! ## Arrivals and links -/

/-- Seven accesses. -/
def sevenReads : List Access := List.replicate 7 (.read 0 0 8)

/-- Seven commands. -/
def sevenCommands : List CommandPacket := List.replicate 7 ⟨0, .lookup 0⟩

/-- A READ packet of 8 bytes at address 0 with tag 2. -/
def readPacket : RawPacket := ⟨1, [2, 0, 0, 0, 0, 0, 8, 0]⟩

/-- A WRITE packet of 1 byte at address 0. -/
def writePacket : RawPacket := ⟨2, [0, 0, 0, 0, 0, 1, 0, 9]⟩

/-- A COMMAND packet: LOOKUP of granule 0 with tag 1. -/
def lookupPacket : RawPacket := ⟨3, [1, 7, 0, 0]⟩

/-- A NOTICE_ACK of sequence 5, and a HELLO. -/
def ackPacket : RawPacket := ⟨4, [5, 0]⟩

/-- A HELLO of host 9. -/
def helloPacket : RawPacket := ⟨5, [9, 0, 0, 0]⟩

/-- A port with a notification in flight, of this sequence, and these pending. -/
def notifiedPort (q : BitVec 16) (l : List PendingEntry) : PortRecord :=
  { onlinePort with
    unit := { entries := l, inFlight := some ⟨q, ⟨0, 1⟩, .expired, 3⟩, sequence := q, ackTimer := some 0 } }

theorem witness_ArrivalJoinsQueue :
    ((at0 { onlinePort with accessQueue := sevenReads }).port 0).lineUp = true ∧
      ((at0 { onlinePort with accessQueue := sevenReads }).port 0).accessQueue.length < 8 ∧
      decodePacket readPacket = some (.access (.read 2 0 8)) ∧ decodePacket writePacket = some (.access (.write 0 1 [9])) ∧
      ((at0 { linkedPort with accessQueue := sevenReads }).port 0).state = .linked ∧
      ((at0 { onlinePort with commandQueue := sevenCommands }).port 0).commandQueue.length < 8 ∧
      decodePacket lookupPacket = some (.command ⟨1, .lookup 0⟩) ∧ idle.phase = .ready := by decide +kernel

theorem witness_ArrivalDiscarded :
    ((at0 fencingPort).port 0).lineUp = true ∧ (at0 fencingPort).phase = .ready ∧ decodePacket ⟨6, []⟩ = none ∧
      ((at0 fencingPort).port 0).state = .fencing ∧ ((at0 linkedPort).port 0).state = .linked ∧
      ({ at0 linkedPort with phase := .startingUp false } : State).phase ≠ .ready ∧
      decodePacket ackPacket = some (.noticeAck 5) := by decide +kernel

theorem witness_NoticeAckOutcome :
    ((at0 (notifiedPort 5 [])).port 0).state = .online ∧
      ((at0 (notifiedPort 5 [])).port 0).unit.inFlight = some ⟨5, ⟨0, 1⟩, .expired, 3⟩ ∧
      decodePacket ackPacket = some (.noticeAck 5) ∧ decodePacket ⟨4, [0xFF, 0xFF]⟩ = some (.noticeAck 65535) ∧
      ((at0 (notifiedPort 65535 [⟨⟨1, 1⟩, .expired⟩])).port 0).unit.entries = [⟨⟨1, 1⟩, .expired⟩] ∧
      Room (at0 (notifiedPort 65535 [⟨⟨1, 1⟩, .expired⟩])) 0 1 ∧ ((at0 onlinePort).port 0).unit.inFlight = none := by
  decide +kernel

theorem witness_HelloOutcome :
    decodePacket helloPacket = some (.hello 9) ∧ ((at0 linkedPort).port 0).state = .linked ∧ Room (at0 linkedPort) 0 1 ∧
      ((at0 fencingPort).port 0).state = .fencing ∧ ((at0 onlinePort).port 0).state = .online ∧
      ((at0 linkedPort).port 0).lineUp = true := by decide +kernel

theorem witness_LinkEventOutcome :
    ((at0 powerOnPort).port 0).lineUp = false ∧ ((at0 powerOnPort).port 0).state = .down ∧
      ((at0 { fencingPort with lineUp := false, linkFlag := false }).port 0).state = .fencing ∧
      (State.reset.port 0).lineUp = false ∧ State.reset.phase ≠ .ready ∧ ((at0 linkedPort).port 0).lineUp = true := by
  decide +kernel

theorem witness_OutboundListOutcome :
    Room (at0 { onlinePort with outbound := fullList.tail }) 0 1 ∧ ¬ Room (at0 { onlinePort with outbound := fullList }) 0 1 ∧
      ¬ Room (at0 { linkedPort with outbound := fullList }) 0 1 ∧
      (⟨idle, [0], [], false⟩ : Work).overflowed = [0] ∧
      ((at0 { onlinePort with outbound := fullList }).port 0).outbound = .response 0 .ok :: fullList.tail := by
  decide +kernel

theorem test_readArrival :
    after (.readArrival 0 readPacket) idle (fun t => (t.port 0).accessQueue) = some [.read 2 0 8] ∧
      refusalOf (exec (.readArrival 0 writePacket) idle) = some .packetOfAnotherRow := by decide +kernel

theorem test_writeArrival :
    after (.writeArrival 0 writePacket) idle (fun t => (t.port 0).accessQueue) = some [.write 0 1 [9]] := by
  decide +kernel

theorem test_commandArrival :
    after (.commandArrival 0 lookupPacket) idle (fun t => (t.port 0).commandQueue) = some [⟨1, .lookup 0⟩] ∧
      after (.commandArrival 0 lookupPacket) (at0 linkedPort) (fun t => (t.port 0).commandQueue) = some [] := by
  decide +kernel

/-- From 65535 the sequence wraps to 1 (R130). -/
theorem test_noticeAck_wraps :
    after (.noticeAck 0 ⟨4, [0xFF, 0xFF]⟩) (at0 (notifiedPort 65535 [⟨⟨1, 1⟩, .expired⟩]))
      (fun t => ((t.port 0).unit.sequence, (t.port 0).outbound)) = some (1, [.notice 1 ⟨1, 1⟩ .expired]) := by
  decide +kernel

/-- The epoch of a new session wraps from 255 to 0 (R144). -/
theorem test_hello_wraps :
    after (.hello 0 helloPacket) (at0 { linkedPort with epoch := 255 })
      (fun t => ((t.port 0).epoch, (t.port 0).state, (t.port 0).hostId)) = some (0, .online, 9) := by decide +kernel

/-- A HELLO in a session fences the port and, no slot being occupied, ends the fence in the same event (R145, R148). -/
theorem test_hello_again :
    after (.hello 0 helloPacket) (leased.setPort 0 { onlinePort with commandTags := 1 })
      (fun t => ((t.port 0).epoch, (t.port 0).fenceCause, (t.port 0).commandTags, (t.lease 0).state,
        t.scrubQueue)) = some (2, some .rehello, 0, .free, [⟨8, 4⟩]) := by decide +kernel

theorem test_links :
    after (.linkUp 0) (at0 powerOnPort) (fun t => ((t.port 0).state, t.alertCauses)) = some (.linked, 0x010) ∧
      after (.linkLoss 0) (at0 { linkedPort with accessQueue := sevenReads })
        (fun t => ((t.port 0).state, (t.port 0).accessQueue)) = some (.down, []) ∧
      refusalOf (exec (.linkUp 0) idle) = some .linkEventsAlternate := by decide +kernel

/-- The bytes of packets from the part, written out from sections 12.1, 12.2 and 12.2.1. -/
theorem test_link_bytes :
    (at0 { onlinePort with outbound := [.readDone 9 .ok [0xAB, 0xCD]] }).nextOnLink 0 =
        some [0x81, 4, 0, 9, 0, 0xAB, 0xCD] ∧
      (at0 { onlinePort with outbound := [.writeRefused byte20 8 .notHolder] }).nextOnLink 0 =
        some [0x82, 8, 0, 0, 0, 0x40, 1, 0, 8, 0, 8] ∧
      (at0 { onlinePort with outbound := [.response 3 (.granted ⟨12, 5⟩ (some 100))] }).nextOnLink 0 =
        some [0x83, 10, 0, 3, 1, 12, 5, 0, 1, 100, 0, 0, 0] ∧
      (at0 { onlinePort with outbound := [.response 3 .tagInUse] }).nextOnLink 0 = some [0x83, 2, 0, 3, 0x1A] ∧
      (at0 { onlinePort with outbound := [.notice 7 ⟨1, 2⟩ (.revoked .fenced)] }).nextOnLink 0 =
        some [0x84, 11, 0, 7, 0, 1, 2, 0, 4, 4, 0, 0, 0, 0] ∧
      (at0 { onlinePort with outbound := [.welcome (idle.welcome 2)] }).nextOnLink 0 =
        some [0x85, 17, 0, 1, 2, 0, 0x10, 0, 0, 0, 0xFF, 0x0F, 0, 4, 0, 16, 0x10, 0x27, 0, 5] ∧
      idle.nextOnLink 0 = none := by decide +kernel

theorem test_found_bytes :
    (OutPacket.response 0 (.found ⟨⟨1, 9⟩, some .shared, .active, false, some 5, 20, 2, [1, 3]⟩)).encode =
      ⟨0x83, [0, 4, 1, 9, 0, 2, 1, 0, 5, 20, 0, 2, 0, 0, 2, 1, 3]⟩ := by decide +kernel

theorem test_packetSent :
    after (.packetSent 0) (at0 { onlinePort with outbound := [.response 1 .ok, .response 2 .none] })
      (fun t => (t.port 0).outbound) = some [.response 2 .none] := by decide +kernel

/-! ## Lease commands -/

theorem witness_RoundRobin :
    (idle.setPort 0 { onlinePort with commandQueue := sevenCommands }).commandServed = 3 ∧
      ((told (.lookup 0)).port 0).commandQueue = [⟨3, .lookup 0⟩] ∧
      (∀ q : Port, (q - (told (.lookup 0)).commandServed - 1).val < (0 - (told (.lookup 0)).commandServed - 1 : Port).val →
        ((told (.lookup 0)).port q).commandQueue = []) ∧
      ((asked (.read 0 0 8) idle).port 0).accessQueue = [.read 0 0 8] := by decide +kernel

/-- Served last H0, with H0 and H3 waiting: H3 is next (R41). -/
theorem test_roundRobin :
    ({ (told (.lookup 0)).setPort 3 { onlinePort with commandQueue := [⟨1, .lookup 2⟩] } with
      commandServed := 0 } : State).nextCommand = some (3, ⟨1, .lookup 2⟩) := by decide +kernel

/-- A taking takes the head of the queue and moves the port served last (R40, R41, R106). -/
theorem test_takings :
    after .lookup ((told (.lookup 0)).setPort 0 { onlinePort with commandQueue := [⟨3, .lookup 0⟩, ⟨4, .lookup 1⟩] })
        (fun t => ((t.port 0).commandQueue, t.commandServed)) = some ([⟨4, .lookup 1⟩], 0) ∧
      after .readTaking (idle.setPort 2 { onlinePort with accessQueue := [.read 1 0 8, .read 2 0 8] })
        (fun t => ((t.port 2).accessQueue, t.accessServed)) = some ([.read 2 0 8], 2) := by decide +kernel

theorem witness_TagInUseAndMalformed :
    ((told (.lookup 0)).setPort 0 { (told (.lookup 0)).port 0 with commandTags := 8 }).nextCommand =
        some (0, ⟨3, .lookup 0⟩) ∧
      (((told (.lookup 0)).setPort 0 { (told (.lookup 0)).port 0 with commandTags := 8 }).port 0).commandTags.getLsbD 3 =
        true ∧
      NextWithFreeTag (told (.unknown 0 [])) 0 3 (.unknown 0 []) ∧ Room (told (.unknown 0 [])) 0 1 := by decide +kernel

/-- One ACQUIRE for each check of R47, each passing those before it: MALFORMED by kind, count, max_wait and pool,
then by term, reach and quota. -/
theorem witness_AcquireRefused :
    NextWithFreeTag (told (.acquire 3 0 1 1 0)) 0 3 (.acquire 3 0 1 1 0) ∧
      [firstFailure (acquireChecks idle 0 3 ⟨0, 1⟩ 1 0), firstFailure (acquireChecks idle 0 1 ⟨0, 0⟩ 1 0),
        firstFailure (acquireChecks idle 0 1 ⟨0, 1⟩ 1 10001), firstFailure (acquireChecks idle 0 1 ⟨4095, 2⟩ 1 0),
        firstFailure (acquireChecks idle 0 1 ⟨0, 1⟩ 10001 0), firstFailure (acquireChecks idle 0 1 ⟨0, 1⟩ 0 0),
        firstFailure (acquireChecks idle 0 1 ⟨0, 1025⟩ 10000 10000), firstFailure (acquireChecks idle 0 2 ⟨4095, 1⟩ 1 0)] =
        [some .malformed, some .malformed, some .malformed, some .malformed, some .deniedTerm, some .deniedTerm,
          some .deniedQuota, none] := by decide +kernel

theorem witness_AcquireGranted :
    NextWithFreeTag (told (.acquire 1 8 4 100 0)) 0 3 (.acquire 1 8 4 100 0) ∧
      firstFailure (acquireChecks (told (.acquire 1 8 4 100 0)) 0 1 ⟨8, 4⟩ 100 0) = none ∧
      (told (.acquire 1 8 4 100 0)).conflicts .exclusive ⟨8, 4⟩ = false ∧
      blocked (told (.acquire 1 8 4 100 0)).waitQueue ⟨8, 4⟩ = false ∧
      ((told (.acquire 1 8 4 100 0)).lease 0).state = .free ∧ Room (told (.acquire 1 8 4 100 0)) 0 1 := by decide +kernel

/-- A waiting queue with three entries of H0, and one with four. -/
def waits (n : Nat) : State :=
  { told (.acquire 1 8 4 100 50) leased with waitQueue := List.replicate n ⟨0, 6, .shared, 200, 1, 1, 9⟩ }

theorem witness_AcquireWaits :
    NextWithFreeTag (waits 3) 0 3 (.acquire 1 8 4 100 50) ∧
      firstFailure (acquireChecks (waits 3) 0 1 ⟨8, 4⟩ 100 50) = none ∧ (waits 3).conflicts .exclusive ⟨8, 4⟩ = true ∧
      (waits 3).waitQueue.length < 32 ∧ ((waits 3).waitQueue.filter (fun e => decide (e.port = 0))).length < 4 ∧
      4 ≤ ((waits 4).waitQueue.filter (fun e => decide (e.port = 0))).length ∧
      NextWithFreeTag (told (.acquire 1 8 4 100 0) leased) 0 3 (.acquire 1 8 4 100 0) ∧
      (told (.acquire 1 8 4 100 0) leased).conflicts .exclusive ⟨8, 4⟩ = true := by decide +kernel

theorem test_acquire_granted :
    after .acquire (told (.acquire 1 8 4 100 0)) (fun t => (t.lease 0).holders) =
        some [⟨0, .readWrite, 100, some 100⟩] ∧
      after .acquire (told (.acquire 1 8 4 100 0)) (fun t => (t.port 0).outbound) =
        some [.response 3 (.granted ⟨0, 1⟩ (some 100))] := by decide +kernel

theorem test_acquire_waits :
    after .acquire (waits 3) (fun t => (t.waitQueue.length, (t.port 0).commandTags)) = some (4, 8) ∧
      after .acquire (waits 4) (fun t => (t.port 0).outbound) = some [.response 3 .waitFull] := by decide +kernel

theorem witness_JoinOutcome :
    NextWithFreeTag (told (.join ⟨1, 1⟩ 5) leased) 0 3 (.join ⟨1, 1⟩ 5) ∧
      firstFailure (joinChecks (told (.join ⟨1, 1⟩ 5) leased) 0 ⟨1, 1⟩ 5) = none ∧
      firstFailure (joinChecks leased 0 ⟨1, 2⟩ 5) = some .stale ∧ firstFailure (joinChecks leased 1 ⟨1, 1⟩ 5) = some .alreadyHolder ∧
      firstFailure (joinChecks leased 2 ⟨0, 1⟩ 5) = some .notShared := by decide +kernel

theorem test_join :
    after .join (told (.join ⟨1, 1⟩ 5) leased) (fun t => (t.lease 1).holders) =
      some [⟨1, .read, 0, none⟩, ⟨0, .read, 5, some 5⟩] := by decide +kernel

theorem witness_RenewOutcome :
    NextWithFreeTag (told (.renew ⟨0, 1⟩ 7) leased) 0 3 (.renew ⟨0, 1⟩ 7) ∧
      firstFailure (renewChecks (told (.renew ⟨0, 1⟩ 7) leased) 0 ⟨0, 1⟩ 7) = none ∧
      firstFailure (renewChecks leased 2 ⟨0, 1⟩ 7) = some .notHolder := by decide +kernel

theorem test_renew :
    after .renew (told (.renew ⟨0, 1⟩ 7) leased) (fun t => (t.lease 0).holders) =
      some [⟨0, .readWrite, 7, some 7⟩] := by decide +kernel

theorem witness_ReleaseOutcome :
    NextWithFreeTag (told (.release ⟨0, 1⟩) leased) 0 3 (.release ⟨0, 1⟩) ∧
      firstFailure (releaseChecks (told (.release ⟨0, 1⟩) leased) 0 ⟨0, 1⟩) = none ∧
      (leased.lease 0).holders.filter (fun x => decide (x.port ≠ 0)) = [] ∧
      NextWithFreeTag (told (.release ⟨1, 1⟩) leased) 0 3 (.release ⟨1, 1⟩) ∧
      firstFailure (releaseChecks (told (.release ⟨1, 1⟩) leased) 0 ⟨1, 1⟩) = some .notHolder ∧
      NextWithFreeTag (told (.release ⟨1, 1⟩) shared) 0 3 (.release ⟨1, 1⟩) ∧
      firstFailure (releaseChecks (told (.release ⟨1, 1⟩) shared) 0 ⟨1, 1⟩) = none ∧
      (shared.lease 1).holders.filter (fun x => decide (x.port ≠ 0)) ≠ [] := by decide +kernel

/-- The last holder's release of a written lease with nothing in flight queues its extent for scrubbing (R84, R86). -/
theorem test_release :
    after .release (told (.release ⟨0, 1⟩) leased) (fun t => (t.lease 0, t.scrubQueue, t.scrubSlot)) =
        some (emptyRecord 1, [⟨8, 4⟩], some 8) ∧
      after .release (told (.release ⟨0, 1⟩) inFlight) (fun t => (t.lease 0).state) = some .draining := by decide +kernel

theorem witness_ConvertOutcome :
    NextWithFreeTag (told (.convert ⟨0, 1⟩) leased) 0 3 (.convert ⟨0, 1⟩) ∧
      firstFailure (convertChecks (told (.convert ⟨0, 1⟩) leased) 0 ⟨0, 1⟩) = none ∧
      firstFailure (convertChecks leased 1 ⟨1, 1⟩) = some .notExclusive := by decide +kernel

theorem test_convert :
    after .convert (told (.convert ⟨0, 1⟩) leased) (fun t => t.lease 0) =
      some { lease8 with kind := some .shared, holders := [⟨0, .read, 100, some 100⟩] } := by decide +kernel

/-- The waiting part with a CANCEL of H2's ACQUIRE at H2. -/
def cancelling : State := waiting.setPort 2 { waiting.port 2 with commandQueue := [⟨3, .cancel 5⟩] }

theorem witness_CancelOutcome :
    NextWithFreeTag cancelling 2 3 (.cancel 5) ∧ Room cancelling 2 2 ∧ cancelling.waitQueue = [] ++ waiter :: [] ∧
      waiter.port = 2 ∧ waiter.tag.val = (5 : Byte).toNat ∧ NextWithFreeTag (told (.cancel 5) waiting) 0 3 (.cancel 5) ∧
      (∀ e ∈ (told (.cancel 5) waiting).waitQueue, ¬ (e.port = 0 ∧ e.tag.val = (5 : Byte).toNat)) := by decide +kernel

theorem test_cancel :
    after .cancel cancelling (fun t => ((t.port 2).outbound, (t.port 2).commandTags)) =
        some ([.response 5 .cancelled, .response 3 .ok], 0) ∧
      after .cancel (told (.cancel 5) waiting) (fun t => (t.port 0).outbound) = some [.response 3 .notWaiting] := by
  decide +kernel

theorem witness_LookupOutcome :
    NextWithFreeTag (told (.lookup 4096) leased) 0 3 (.lookup 4096) ∧ leased.geometry.poolGranules ≤ 4096 ∧
      (leased.lease 0).coversLive 11 = true ∧ (∀ i, (leased.lease i).coversLive 12 = false) := by decide +kernel

theorem test_lookup :
    after .lookup (told (.lookup 4096)) (fun t => (t.port 0).outbound) = some [.response 3 .outOfPool] ∧
      after .lookup (told (.lookup 41) scrubbing) (fun t => (t.port 0).outbound) = some [.response 3 .scrubbing] := by
  decide +kernel

theorem test_malformedCommand :
    after .malformedCommand (told (.unknown 8 [])) (fun t => (t.port 0).outbound) = some [.response 3 .malformed] ∧
      refusalOf (exec .acquire (told (.unknown 8 []))) = some .commandOfAnotherRow := by decide +kernel

theorem witness_ConflictRule :
    (1 ≤ lease8.extent.count ∧ lease8.extent.overlaps ⟨11, 1⟩ = true ∧ lease8.extent.overlaps ⟨12, 1⟩ = false ∧
      lease8.extent.overlaps ⟨7, 1⟩ = false ∧ lease8.coversLive 11 = true ∧ lease8.coversLive 12 = false) ∧
      (∀ x ∈ scrubbing.scrubQueue, 1 ≤ x.count) ∧ scrubbing.inScrubQueue 41 = true ∧ scrubbing.inScrubQueue 42 = false ∧
      blocked [waiter] ⟨9, 1⟩ = true ∧ blocked [waiter] ⟨10, 1⟩ = false ∧
      lease8.holders = [] ++ ⟨0, .readWrite, 100, some 100⟩ :: [] := by decide +kernel

/-- A waiting request of one granule by H0, granted by a scan. -/
def entry0 : WaitEntry := ⟨0, 6, .exclusive, 30, 1, 0, 9⟩

/-- The waiting part with H2's reach moved away from its request and H2's outbound list full: a scan overflows H2. -/
def overflowing : State :=
  { waiting.setPort 2 { waiting.port 2 with outbound := fullList } with
    running := { idle.running with
      ports := idle.running.ports.set 2 { idle.running.ports[2] with reachBase := 9 } } }

theorem witness_ScanOfOneEntry :
    Room idle 0 1 ∧ reachFails (idle.policy 0) ⟨4095, 2⟩ = true ∧ reachFails (idle.policy 0) ⟨4095, 1⟩ = false ∧
      quotaFails idle 0 (idle.policy 0) 1025 = true ∧ quotaFails idle 0 (idle.policy 0) 1024 = false ∧
      blocked [entry0] entry0.extent = true ∧ leased.conflicts .exclusive ⟨8, 1⟩ = true ∧
      idle.conflicts .exclusive entry0.extent = false ∧ (idle.lease 0).state = .free := by decide +kernel

/-- The premises on how an event settles: a scan that overflows no port, a fence end that overflows none, a fence of an
overflowed port, and a scan that overflows a port whose fence then overflows none. -/
theorem witness_ScanOfOneEntry_settle :
    ((⟨waiting, [], [], true⟩ : Work).scan.overflowed = [] ∧
      ((Work.start (at0 fencingPort)).fenceEnd 0).overflowed = [] ∧
      ((⟨waiting, [2], [], false⟩ : Work).fenceOverflowed.scan.overflowed = [] ∧
        (⟨waiting, [2], [], false⟩ : Work).fenceOverflowed.scanDue = true)) ∧
      (⟨overflowing, [], [], true⟩ : Work).fenceOverflowed.scan.overflowed = [2] ∧
      (⟨overflowing, [], [], true⟩ : Work).fenceOverflowed.scan.fenceOverflowed.scan.overflowed = [] := by decide +kernel

/-- The scan's answer overflows H2, which is fenced, and with no slot held its fence ends in the same event (R66, R141,
R146, R148). -/
theorem test_scan_overflow :
    ((⟨overflowing, [], [], true⟩ : Work).settle.port 2).state = .linked ∧
      ((⟨overflowing, [], [], true⟩ : Work).settle.port 2).fenceCause = some .overflow ∧
      (⟨overflowing, [], [], true⟩ : Work).settle.waitQueue = [] := by decide +kernel

theorem witness_SecondScanChangesNothing :
    ∀ e ∈ (Work.start waiting).scan.st.waitQueue, (Work.start waiting).scan.st.quotaAllows e.port e.count = true := by
  decide +kernel

/-! ## Deadlines -/

/-- The waiting part at lease clock 60. -/
def late : State := { waiting with clock := 60 }

theorem witness_WaitDeadlineOutcome :
    late.waitQueue = [] ++ waiter :: [] ∧ (late.clock - waiter.deadline).toNat < 2 ^ 31 ∧ Room late waiter.port 1 := by
  decide +kernel

theorem test_waitDeadline :
    after (.waitDeadlineExpiry 2 5) late (fun t => ((t.port 2).outbound, t.waitQueue)) =
        some ([.response 5 .deniedTimeout], []) ∧
      refusalOf (exec (.waitDeadlineExpiry 2 5) waiting) = some .deadlineNotReached := by decide +kernel

/-- The leased part at lease clock 100, the deadline of H0 in L0. -/
def expired : State := { leased with clock := 100 }

theorem witness_HolderExpiryOutcome :
    (expired.lease 0).state = .active ∧ (expired.lease 0).holderOf 0 = some ⟨0, .readWrite, 100, some 100⟩ ∧
      (expired.clock - 100).toNat < 2 ^ 31 ∧ (expired.lease 0).holders.filter (fun x => decide (x.port ≠ 0)) = [] ∧
      (({ shared with clock := 100 } : State).lease 1).holderOf 0 = some ⟨0, .read, 100, some 100⟩ ∧
      (shared.lease 1).state = .active ∧ (shared.lease 1).holders.filter (fun x => decide (x.port ≠ 0)) ≠ [] := by
  decide +kernel

theorem test_holderExpiry :
    after (.holderExpiry 0 0) expired (fun t => ((t.port 0).outbound, (t.lease 0).state)) =
        some ([.notice 1 ⟨0, 1⟩ .expired], .free) ∧
      refusalOf (exec (.holderExpiry 0 0) leased) = some .deadlineNotReached := by decide +kernel

/-- L0 in NOTICE with its deadline reached and an access in flight. -/
def noticeOver : State := { inFlight.setLease 0 { noticed lease8 with drainCount := 1 } with clock := 50 }

theorem witness_NoticeDeadlineOutcome :
    (noticeOver.lease 0).state = .notice ∧ (noticeOver.lease 0).notice = some ⟨.forced, 50⟩ ∧
      (noticeOver.clock - 50).toNat < 2 ^ 31 ∧ (noticeOver.lease 0).drainCount ≠ 0 ∧
      (noticeOver.lease 0).holds 1 = false ∧ (leased.lease 0).state = .active ∧ (leased.lease 0).drainCount = 0 := by
  decide +kernel

theorem test_noticeDeadline :
    after (.noticeDeadline 0) noticeOver (fun t => ((t.lease 0).state, (t.lease 0).revokeCause, (t.port 0).outbound)) =
      some (.draining, some .forced, [.notice 1 ⟨0, 1⟩ (.revoked .forced)]) := by decide +kernel

/-- The idle part with a notification redelivered twice. -/
def redelivered : State :=
  at0 { onlinePort with unit := { (notifiedPort 5 []).unit with inFlight := some ⟨5, ⟨0, 1⟩, .expired, 2⟩ } }

theorem witness_AckTimerOutcome :
    ((at0 (notifiedPort 5 [])).port 0).unit.ackTimer = some 0 ∧ ((at0 (notifiedPort 5 [])).clock - 0).toNat < 2 ^ 31 ∧
      ((at0 (notifiedPort 5 [])).port 0).unit.inFlight = some ⟨5, ⟨0, 1⟩, .expired, 3⟩ ∧
      (redelivered.port 0).unit.inFlight = some ⟨5, ⟨0, 1⟩, .expired, 2⟩ ∧ (redelivered.port 0).unit.ackTimer = some 0 ∧
      Room redelivered 0 1 := by decide +kernel

/-- The third redelivery is sent; the fourth expiry is the fence start (R132, R133). -/
theorem test_ackTimer_redelivers :
    after (.ackTimerExpiry 0) redelivered (fun t => ((t.port 0).outbound, (t.port 0).unit.ackTimer)) =
      some ([.notice 5 ⟨0, 1⟩ .expired], some 5) := by decide +kernel

theorem test_ackTimer :
    after (.ackTimerExpiry 0) (at0 (notifiedPort 5 [])) (fun t => ((t.port 0).fenceCause, t.alertCauses)) =
      some (some .unresponsive, 1) := by decide +kernel

/-- Sixty-four pending entries. -/
def fullSet : List PendingEntry := (List.finRange 64).map (fun i => ⟨⟨⟨i.val + 10, by omega⟩, 1⟩, .expired⟩)

theorem witness_NotificationEvent :
    ((at0 linkedPort).port 0).state ≠ .online ∧
      ((at0 (notifiedPort 5 [⟨⟨1, 1⟩, .expired⟩])).port 0).unit.entries = [] ++ ⟨⟨1, 1⟩, .expired⟩ :: [] ∧
      ((at0 (notifiedPort 5 fullSet.tail)).port 0).unit.entries.length < 64 ∧
      64 ≤ ((at0 (notifiedPort 5 fullSet)).port 0).unit.entries.length ∧
      (∀ y ∈ ((at0 (notifiedPort 5 fullSet)).port 0).unit.entries, y.handle ≠ ⟨0, 1⟩) ∧
      ((at0 onlinePort).port 0).unit.inFlight = none ∧ Room (at0 onlinePort) 0 1 := by decide +kernel

/-! ## Accesses -/

/-- The leased part with a READ of granule 8 by H0, one of granule 20, and a WRITE of granule 20 by H1. -/
def readOwn : State := asked (.read 9 byte8 8) leased

theorem witness_AccessRefused :
    (asked (.read 9 byte20 8) leased).slot 0 = none ∧ Room (asked (.read 9 byte20 8) leased) 0 1 ∧
      (asked (.read 9 byte20 8) leased).nextAccess = some (0, .read 9 byte20 8) ∧
      firstFailure (accessChecks (asked (.read 9 byte20 8) leased) 0 (some 9) byte20.toNat 8) = none ∧
      firstFailure (accessChecks leased 0 none byte8.toNat 264) = some .badLength ∧
      firstFailure (accessChecks leased 0 (some 9) 0xFFFFFFFF8 8) = some .outOfPool ∧
      (∀ i, ¬ Admits leased i 0 .read (byte20.toNat / 2 ^ 20)) ∧ LookupReason leased 0 .read (byte20.toNat / 2 ^ 20) .notHolder ∧
      LookupReason leased 1 .write (byte20.toNat / 2 ^ 20) .readOnly ∧ LookupReason leased 1 .write 300 .noLease := by
  decide +kernel

theorem witness_AccessAdmitted :
    readOwn.nextAccess = some (0, .read 9 byte8 8) ∧ readOwn.slot 0 = none ∧
      firstFailure (accessChecks readOwn 0 (some 9) byte8.toNat 8) = none ∧
      Admits readOwn 0 0 .read (byte8.toNat / 2 ^ 20) ∧ Admits readOwn 0 0 .write (byte8.toNat / 2 ^ 20) ∧
      (asked (.write byte8 8 [1, 2, 3, 4, 5, 6, 7, 8]) leased).nextAccess = some (0, .write byte8 8 [1, 2, 3, 4, 5, 6, 7, 8]) := by
  decide +kernel

theorem test_readTaking :
    after .readTaking readOwn (fun t => (t.slot 0, (t.lease 0).drainCount, (t.port 0).readTags)) =
        some (some reading, 1, 0x200) ∧
      after .readTaking (asked (.read 9 byte20 8) leased) (fun t => (t.port 0).outbound) =
        some [.readDone 9 (.refused .notHolder) []] := by decide +kernel

theorem test_writeTaking :
    after .writeTaking (asked (.write byte20 8 []) leased) (fun t => ((t.port 0).outbound, (t.port 0).refusal)) =
        some ([.writeRefused byte20 8 .notHolder], some ⟨.write, byte20, .notHolder, false⟩) ∧
      refusalOf (exec .writeTaking readOwn) = some .accessOfAnotherRow := by decide +kernel

theorem witness_CompletionOutcome :
    inFlight.slot 0 = some reading ∧ reading.orphaned = false ∧ Room inFlight reading.port 1 ∧
      (inFlight.lease 0).state ≠ .draining ∧ drainingFlight.slot 0 = some reading ∧
      (drainingFlight.lease 0).state = .draining ∧ (drainingFlight.lease 0).drainCount - 1 = 0 ∧
      writing.slot 0 = some { reading with kind := .write } := by
  decide +kernel

theorem witness_OrphanedCompletionOutcome :
    (inFlight.orphanSlots 0).slot 0 = some { reading with orphaned := true } ∧
      (∀ m, m ≠ 0 → (inFlight.orphanSlots 0).slot m = none) ∧
      ((inFlight.setSlot 5 (some reading)).orphanSlots 0).slot 5 = some { reading with orphaned := true } ∧
      ((drainingFlight.orphanSlots 0).lease 0).state = .draining ∧
      ((drainingFlight.orphanSlots 0).lease 0).drainCount - 1 = 0 ∧
      (drainingFlight.orphanSlots 0).slot 0 = some { reading with orphaned := true } ∧
      ((inFlight.orphanSlots 0).lease 0).state ≠ .draining ∧
      ((writing.orphanSlots 0).slot 0).map HostSlot.kind = some .write := by
  decide +kernel

/-- A WRITE is read back by a READ of the same bytes (R118), and a READ with a pool error is answered so (R117). -/
theorem test_completions :
    after (.writeCompletion 0) writing (fun t => (t.pool.readBytes 0x800000 8, (t.lease 0).drainCount, t.slot 0)) =
        some (List.replicate 8 0xFF, 0, none) ∧
      after (.readCompletion 0 true) inFlight (fun t => ((t.port 0).readTags, (t.lease 0).damage, t.alertCauses)) =
        some (0, some byte8, 0x100) := by decide +kernel

/-- The last completion of a DRAINING written lease retires it into the scrub queue (R86, R117). -/
theorem test_draining_completion :
    after (.readCompletion 0 false) drainingFlight (fun t => (t.lease 0, t.scrubQueue)) =
      some (emptyRecord 1, [⟨8, 4⟩]) := by decide +kernel

/-- The last orphaned completion ends the fence (R117, R123). -/
theorem test_orphaned_completion :
    after (.readCompletion 0 false) ((inFlight.orphanSlots 0).setPort 0 fencingPort)
      (fun t => ((t.port 0).state, (t.port 0).outbound)) = some (.linked, []) := by decide +kernel

theorem witness_PoolErrorOutcome :
    inFlight.slot 0 = some reading ∧ reading.kind = .read 9 ∧ reading.orphaned = false := by decide +kernel

theorem witness_PoolContents :
    writing.pool.wf = true ∧ writing.operationOf 0 = some ⟨0, .write byte8 (List.replicate 8 0xFF), none⟩ ∧
      (∀ o ∈ writing.operations, o.slot ≠ 0 → o.carriedOut = none →
        o.request.clashes (.write byte8 (List.replicate 8 0xFF)) = false) ∧
      inFlight.operationOf 0 = some ⟨0, .read byte8 8, none⟩ := by decide +kernel

/-! ## Scrub engine and fences -/

theorem witness_ZeroFillOutcome :
    scrubbing.scrubSlot = some 40 ∧ scrubbing.scrubQueue = ⟨40, 2⟩ :: [] ∧ (1 : Nat) < (⟨40, 2⟩ : Extent).count ∧
      (⟨41, 1⟩ : Extent).count ≤ 1 ∧ scrubbing.held = [] ∧
      ({ scrubbing with held := [0], scrubQueue := [⟨40, 1⟩, ⟨50, 1⟩] } : State).scrubQueue = ⟨40, 1⟩ :: ⟨50, 1⟩ :: [] := by
  decide +kernel

theorem test_zeroFill :
    after .zeroFillCompletion scrubbing (fun t => (t.scrubQueue, t.scrubSlot, t.pool.readByte 0x2800000)) =
      some ([⟨41, 1⟩], some 41, 0) := by decide +kernel

theorem witness_FenceStartOutcome :
    (leased.lease 0).inForce = true ∧ (leased.lease 0).standing = none ∧ (leased.lease 0).holds 0 = true ∧
      (leased.lease 0).holders.all (fun h => decide (h.port = 0)) = true ∧ (leased.lease 0).drainCount = 0 ∧
      (inFlight.lease 0).drainCount ≠ 0 ∧ (leased.lease 1).holds 0 = false ∧ (leased.lease 2).inForce = false ∧
      (shared.lease 1).inForce = true ∧ (shared.lease 1).holds 0 = true ∧
      (shared.lease 1).holders.any (fun h => decide (h.port ≠ 0)) = true ∧ (inFlight.slot 0).isSome = true ∧
      retiresAtFence leased 0 0 = true ∧ scrubNeeded leased (leased.lease 0) = true ∧
      retiresAtFence leased 1 1 = true ∧ scrubNeeded leased (leased.lease 1) = false := by
  decide +kernel

/-- With the scrub queue full, a lease that a fence retires is held in DRAINING (R86, R88). -/
theorem test_fence_holds :
    ((fun (s : State) => (s.scrubQueue.length, s.held, (s.lease 0).state))
      ((Work.start { leased with scrubQueue := List.replicate 512 ⟨40, 2⟩ }).fenceStart 0 .reset none).st) =
        (512, [0], .draining) := by decide +kernel

theorem witness_FenceEndOutcome :
    ((at0 { fencingPort with linkFlag := false }).port 0).linkFlag = false ∧
      ((at0 { fencingPort with helloPending := some 9 }).port 0).helloPending = some 9 ∧
      ((at0 fencingPort).port 0).helloPending = none ∧ Room (at0 { fencingPort with helloPending := some 9 }) 0 1 := by
  decide +kernel

/-! ## Service requests -/

theorem witness_ReadingRequests :
    idle.phase = .ready ∧ (3 : Byte).toNat = (3 : Port).val ∧ 3 < (4 : Byte).toNat ∧
      (255 : BitVec 16).toNat = (255 : RecordIndex).val ∧ 255 < (256 : BitVec 16).toNat ∧ (65535 : BitVec 24).toNat ≤ 65535 ∧
      65535 < (65536 : BitVec 24).toNat ∧ ProfileField.ofSelector ⟨0x10, 0, 15⟩ = some (.entryScrub 15) ∧
      ProfileField.ofSelector ⟨0x10, 0, 16⟩ = none := by decide +kernel

theorem test_reading_requests :
    after .identify idle (fun t => t.response.map (fun r => r.fields.take 5)) = some (some [1, 0, 1, 0xA0, 0x01]) ∧
      after .status idle (fun t => t.response.map (fun r => r.fields.length)) = some (some 54) ∧
      after .alertRead { idle with alertCauses := 0x801 } (fun t => t.response.map (fun r => r.fields)) =
        some (some [0x01, 0x08, 0xFF, 0x0F, 0x01]) ∧
      after .waitRead waiting (fun t => t.response.map (fun r => r.fields)) =
        some (some [0, 0, 0, 0, 1, 2, 5, 1, 8, 0, 2, 0, 0, 30, 0, 60, 0, 0, 0]) ∧
      after .scrubRead scrubbing (fun t => t.response.map (fun r => r.fields)) =
        some (some [1, 0, 1, 40, 0, 2, 0, 0, 1, 40, 0, 0, 0]) := by decide +kernel

theorem test_views :
    after (.portStatus 0) idle (fun t => t.response.map (fun r => (r.result, r.fields.length, r.fields.take 3))) =
        some (some (.ok, 48, [2, 1, 1])) ∧
      after (.leaseRead 0) leased (fun t => t.response.map (fun r => r.fields.take 12)) =
        some (some [0, 1, 0, 1, 1, 0xFF, 1, 8, 0, 4, 0, 0]) ∧
      after (.leaseNext 9) leased (fun t => t.response.map (fun r => r.fields.take 4)) = some (some [1, 1, 1, 0]) ∧
      after (.fieldRead ⟨8, 2, 0⟩) idle (fun t => t.response.map (fun r => r.fields)) = some (some [0x10, 0x27, 0]) := by
  decide +kernel

/-- A record view of a lease given notice, a PORT_STATUS with a refusal and a notification in flight, and the list of
other records of the same base that LEASE_NEXT gives. -/
theorem test_view_contents :
    ((leased.setLease 0 (noticed lease8)).recordView 0).drop 49 =
        [0, 3, 50, 0, 0, 0, 3, 0, 0, 0, 0, 0, 0, 0, 0, 0, 0, 0, 0] ∧
      (((at0 { notifiedPort 5 [] with refusal := some ⟨.write, byte20, .noLease, false⟩ }).portView 0).drop 13).take 9 =
        [1, 2, 0, 0, 0x40, 1, 0, 9, 0] ∧
      (((at0 (notifiedPort 5 [])).portView 0).drop 37) = [0, 1, 5, 0, 3, 0, 1, 0, 3, 5, 0] ∧
      ((leased.setLease 4 lease20).nextView 9).drop 69 = [1, 4] ∧ idle.nextView 9 = [0] := by decide +kernel

/-- Data out (R167): FFh under the first byte of each transfer and through a whole request transfer; from the second
byte of a read transfer the ready byte and the frame. -/
theorem test_dataOut :
    idle.dataOut (requestFrame 2 []) = [0xFF, 0xFF, 0xFF] ∧ idle.dataOut [0, 0, 0] = [0xFF, 1, 0] ∧
      (idle.putResponse 2 .ok [7]).dataOut [0, 9, 9, 9, 9, 9, 9] = [0xFF, 2, 2, 0, 1, 0, 7] ∧
      idle.dataOut [] = [] := by decide +kernel

theorem witness_LayoutSizes :
    (leased.lease 0).holders[0]? = some ⟨0, .readWrite, 100, some 100⟩ ∧ (leased.lease 0).notice = none ∧
      (noticed lease8).notice = some ⟨.forced, 50⟩ ∧ lease20.holders.length ≤ 1 ∧ (leased.lease 0).damage = none ∧
      waiting.waitQueue[0]? = some waiter ∧ scrubbing.scrubQueue = ⟨40, 2⟩ :: [] ∧ scrubbing.scrubSlot = some 40 ∧
      idle.scrubQueue = [] ∧ idle.scrubSlot = none ∧ onlinePort.helloPending = none ∧ onlinePort.refusal = none ∧
      (notifiedPort 5 []).unit.inFlight = some ⟨5, ⟨0, 1⟩, .expired, 3⟩ ∧ idle.bootCell.named = some 0 ∧
      (⟨4, 0xFB⟩ : BootCell).named = none ∧ idle.nvOperation = none ∧ idle.response = none ∧
      (idle.putResponse 2 .ok [7]).response = some ⟨2, .ok, [7]⟩ ∧ (leased.lease 0).live = true ∧
      (idle.lease 0).live = false ∧ ([0, 0] : List Byte).length ≤ idle.readTransfer.length := by decide +kernel

theorem witness_BadTransfers :
    decodeTransfer [1] = some (.badFrame [1]) ∧ decodeTransfer [] = some (.badFrame []) ∧
      decodeTransfer (requestFrame 0x14 []) = some (.badCommand (requestFrame 0x14 [])) ∧
      State.reset.phase ≠ .ready := by decide +kernel

theorem test_bad_transfers :
    after (.badFrame [1]) idle (fun t => t.response) = some (some ⟨1, .badFrame, []⟩) ∧
      after (.badCommand (requestFrame 0x14 [])) idle (fun t => t.response) = some (some ⟨0x14, .badCommand, []⟩) ∧
      refusalOf (exec (.badFrame (requestFrame 2 [])) idle) = some .transferOfAnotherRow := by decide +kernel

theorem witness_AlertsAndRefusalClear :
    idle.phase = .ready ∧ (0xFFF : BitVec 16).toNat < 2 ^ 12 ∧ 2 ^ 12 ≤ (0x1000 : BitVec 16).toNat := by decide +kernel

theorem test_alerts :
    after (.alertClear 0x001) { idle with alertCauses := 0x801 } (fun t => (t.alertCauses, t.alertAsserted)) =
        some (0x800, true) ∧
      after (.alertMask 0x7FF) { idle with alertCauses := 0x800 } (fun t => (t.alertMaskBits, t.alertAsserted)) =
        some (0x7FF, false) ∧
      after (.refusalClear 0) (at0 { onlinePort with refusal := some ⟨.read, 0, .noLease, true⟩ })
        (fun t => (t.port 0).refusal) = some none := by decide +kernel

theorem witness_PortResetOutcome :
    idle.phase = .ready ∧ (0 : Byte).toNat = (0 : Port).val ∧ (idle.port 0).state = .online ∧
      ((at0 linkedPort).port 0).state ≠ .online := by decide +kernel

theorem test_portReset :
    after (.portReset 0) idle (fun t => ((t.port 0).state, (t.port 0).fenceCause)) = some (.linked, some .reset) ∧
      after (.portReset 0) (at0 linkedPort) (fun t => (t.port 0).fenceCause) = some none := by decide +kernel

theorem witness_ForceRevokeOutcome :
    (10000 : BitVec 16).toNat ≤ 10000 ∧ 10000 < (10001 : BitVec 16).toNat ∧ (leased.lease 2).state = .free ∧
      (drainingFlight.lease 0).state = .draining ∧ (leased.lease 0).state = .active ∧
      ((leased.setLease 0 (noticed lease8)).lease 0).state = .notice ∧ leased.phase = .ready ∧
      (50 : ClockValue) ≠ 49 ∧ ((50 : ClockValue) - 49).toNat < 2 ^ 31 ∧
      2 ^ 31 ≤ ((50 : ClockValue) - 51).toNat := by decide +kernel

/-- A notice deadline is brought forward and not put back (R79). -/
theorem test_forceRevoke :
    after (.forceRevoke ⟨0, 1⟩ 49) (leased.setLease 0 (noticed lease8)) (fun t => (t.lease 0).notice) =
        some (some ⟨.forced, 49⟩) ∧
      after (.forceRevoke ⟨0, 1⟩ 51) (leased.setLease 0 (noticed lease8)) (fun t => (t.lease 0).notice) =
        some (some ⟨.forced, 50⟩) := by decide +kernel

theorem witness_FieldWriteOutcome :
    idle.phase = .ready ∧ ProfileField.ofSelector ⟨0x11, 0, 0⟩ = none ∧
      ProfileField.ofSelector ⟨8, 3, 0⟩ = some (.maxTerm 3) ∧ (idle.running.writeField (.maxTerm 3) 0).isNone = true ∧
      (idle.running.writeField (.maxTerm 3) 65535).isSome = true := by decide +kernel

theorem witness_FieldWriteReadsBack :
    (idle.running.writeField (.entryRight 15 3) 2).map (fun f => f.fieldValue (.entryRight 15 3)) = some 2 ∧
      (⟨0x0A, 3, 16⟩ : Selector).port.toNat = (3 : Port).val ∧ (⟨0x0F, 3, 15⟩ : Selector).entry.toNat = (15 : EntryNumber).val ∧
      ((⟨0x0A, 3, 16⟩ : Selector).code.toNat, ProfileField.ackTimeout 3, 5) ∈
        [(0x0A, ProfileField.ackTimeout 3, idle.running.ports[(3 : Port)].ackTimeout)] := by
  decide +kernel

/-- A reach window moved away from a waiting request denies it (R28, R66). -/
theorem test_fieldWrite :
    after (.fieldWrite ⟨4, 2, 0⟩ 9) waiting (fun t => ((t.port 2).outbound, t.waitQueue)) =
        some ([.response 5 .deniedReach], []) ∧
      after (.fieldWrite ⟨1, 0, 0⟩ 0) idle (fun t => t.response) = some (some ⟨0x10, .badValue, []⟩) := by decide +kernel

/-! ## Profile store, resets and start-up -/

/-- The idle part with a save of the running profile to slot 2 under way. -/
def saving : State := { idle with nvOperation := some (.save 1 idle.running) }

theorem witness_ProfileStoreRequests :
    idle.phase = .ready ∧ 3 < (4 : Byte).toNat ∧ saving.nvOperation.isSome = true ∧ (3 : Byte).toNat = (2 : Fin 3).val + 1 ∧
      idle.validImage 1 = none ∧ idle.validImage 0 = some factoryProfile ∧ idle.nvOperation = none := by decide +kernel

theorem test_profile_store :
    after (.profileSave 0) idle (fun t => t.response) = some (some ⟨0x11, .refusedFactory, []⟩) ∧
      after (.profileLoad 0) saving (fun t => t.response) = some (some ⟨0x12, .busy, []⟩) ∧
      after (.bootSelect 3) idle (fun t => (t.bootCell.named, t.nvOperation)) = some (none, some (.select 3)) ∧
      after (.profileSave 3) idle (fun t => t.nvOperation) = some (some (.save 2 factoryProfile)) := by decide +kernel

theorem witness_NvCompletion :
    saving.nvOperation = some (.save 1 idle.running) ∧ idle.running.inRange = true ∧
      ({ idle with nvOperation := some (.select 3) } : State).nvOperation = some (.select 3) := by decide +kernel

theorem test_nvOperationComplete :
    after (.nvOperationComplete true) { idle with nvOperation := some (.select 3) }
        (fun t => (t.bootCell, t.alertCauses)) = some (⟨3, 0xFC⟩, 0x400) ∧
      after (.nvOperationComplete false) saving (fun t => (t.alertCauses, t.nvOperation)) = some (0x800, none) := by
  decide +kernel

theorem witness_PowerOnOutcome :
    ({ idle with phase := .resetHeld } : State).phase = .resetHeld ∧ idle.phase ≠ .powerOnHeld ∧ idle.phase ≠ .resetHeld ∧
      idle.bootCell.named = some 0 ∧ (⟨4, 0xFB⟩ : BootCell).named = none ∧ (⟨3, 0xFC⟩ : BootCell).named = some 3 ∧
      idle.validImage 3 = none ∧ idle.validImage 0 = some factoryProfile := by decide +kernel

/-- A boot cell that names an invalid slot loads the factory profile and reports it (R158). -/
theorem test_powerOnReset :
    after .powerOnReset { idle with bootCell := ⟨3, 0xFC⟩ } (fun t => (t.report.fallback, t.alertCauses, t.scrubQueue)) =
      some (some .slotInvalid, 0x200, [⟨0, 4096⟩]) := by decide +kernel

theorem witness_DeviceResetOutcome :
    idle.phase = .ready ∧ ({ idle with phase := .resetHeld } : State).phase = .resetHeld ∧
      ({ idle with phase := .powerOnHeld } : State).phase = .powerOnHeld ∧ idle.phase ≠ .resetHeld := by decide +kernel

theorem test_deviceReset :
    after .deviceReset { leased with running := standingProfile }
      (fun t => (t.lease 0, t.scrubQueue, (t.port 0).state, t.response)) =
        some ({ emptyRecord 2 with
          state := .active, kind := some .common, standing := some 5, written := true, base := 100, count := 10,
          holders := [⟨0, .readWrite, 0, none⟩, ⟨1, .read, 0, none⟩] }, [⟨0, 100⟩, ⟨110, 3986⟩], .down,
          some ⟨0x0E, .ok, []⟩) := by decide +kernel

theorem test_reset_line :
    after .resetAssert { idle with response := some ⟨1, .ok, []⟩ } (fun t => (t.response, t.phase)) =
        some (none, .resetHeld) ∧
      after .resetRelease { idle with phase := .resetHeld } (fun t => (t.phase, t.scrubQueue)) =
        some (.startingUp false, [⟨0, 4096⟩]) ∧
      refusalOf (exec .resetRelease idle) = some .resetLineUnchanged := by decide +kernel

theorem witness_ScrubQueueRebuilt :
    (∀ i, (leased.lease i).live →
      1 ≤ (leased.lease i).count ∧ (leased.lease i).base + (leased.lease i).count ≤ leased.geometry.poolGranules) ∧
      leased.geometry.initScrub = true ∧ ({ leased with geometry := ⟨4096, false⟩ } : State).geometry.initScrub = false := by
  decide +kernel

theorem witness_StandingLeasesInstantiated :
    (∀ i, (({ idle with standingSet := standingProfile.standing } : State).lease i).state = .free) ∧
      ({ idle with standingSet := standingProfile.standing } : State).instantiate.report.outcomes[5] = .accepted 0 := by
  decide +kernel

/-- A standing set that meets each outcome of R159: unused, zero count, beyond the pool, without holder, SHARED with a
writer, accepted, overlapping the accepted one, and accepted behind it. -/
def mixedSet : Vector StandingEntry 16 :=
  (((((((Vector.replicate 16 unusedEntry).set 1 { commonEntry with count := 0 }).set 2
    { commonEntry with base := 4090 }).set 3 { commonEntry with rights := Vector.replicate 4 .none }).set 4
    { commonEntry with kind := .shared }).set 5 commonEntry).set 6 { commonEntry with base := 109 }).set 7
    { commonEntry with kind := .shared, base := 110, rights := #v[.none, .none, .read, .none] }

theorem test_standing_outcomes :
    (({ idle with standingSet := mixedSet } : State).instantiate.report.outcomes.toList.take 8) =
        [.unused, .zeroCount, .beyondPool, .noHolder, .sharedWriter, .accepted 0, .overlap, .accepted 1] ∧
      ({ idle with standingSet := mixedSet } : State).instantiate.alertCauses = 0x200 ∧
      ({ idle with standingSet := mixedSet } : State).instantiate.lease 1 =
        { emptyRecord 1 with
          state := .active, kind := some .shared, standing := some 7, base := 110, count := 10,
          holders := [⟨2, .read, 0, none⟩] } := by decide +kernel

theorem witness_ReadinessAndLeaseClock :
    State.reset.phase = .startingUp true ∧ State.reset.phase ≠ .ready ∧ idle.phase = .ready := by decide +kernel

theorem test_becomeReady :
    after .becomeReady (State.reset.setPort 2 { powerOnPort with lineUp := true })
      (fun t => ((t.port 2).state, (t.port 0).state, t.alertCauses, t.scrubSlot)) =
        some (.linked, .down, 0x040, some 0) := by decide +kernel

/-- The lease clock wraps (R21). -/
theorem test_leaseClockTick :
    after .leaseClockTick { idle with clock := 0xFFFFFFFF } (fun t => t.clock) = some 0 ∧
      after .leaseClockTick State.reset (fun t => t.clock) = some 0 := by decide +kernel

/-! ## The queue of commands, codecs and laws -/

theorem witness_StepTakesTheFront :
    ({ idle with pending := [.leaseClockTick, .status] } : State).pending = .leaseClockTick :: [.status] ∧
      idle.pending = [] := by decide +kernel

theorem test_step :
    (nextOf (step { idle with pending := [.leaseClockTick, .status] })).map (fun t => (t.clock, t.pending)) =
      some (1, [.status]) := by decide +kernel

theorem witness_codecs :
    (Packet.access (.write 0 256 (List.replicate 256 0))).wellFormed = true ∧
      (Packet.command ⟨7, .unknown 8 [1]⟩).wellFormed = true ∧ (Packet.command ⟨0, .unknown 0 []⟩).wellFormed = true ∧
      encodeTransfer (.leaseNext 65536) = some (requestFrame 0x0A [0, 0, 1]) ∧ ([] : List Byte).head? ≠ some 0 ∧
      0x13 < (0x14 : Byte).toNat ∧ ([0, 0] : List Byte).length ≠ 0 := by decide +kernel

/-- A ready part with two leases, a READ in flight under the first and two granules to scrub, whose READ completes next. -/
def lawful : State :=
  { inFlight with scrubQueue := [⟨40, 2⟩], scrubSlot := some 40, pending := [.readCompletion 0 false] }

theorem witness_StepKeepsCapacities : Capacities lawful ∧ (nextOf (step lawful)).isSome = true := by
  unfold Capacities; decide +kernel

theorem witness_StepKeepsDrainLaw : DrainLaw lawful := by unfold DrainLaw; decide +kernel

/-- Its one occupied host slot. -/
theorem lawful_slot : ∀ n x, lawful.slot n = some x → n = 0 ∧ x = reading := by
  intro n x h
  obtain rfl : n = 0 := by
    have h' : ∀ n : HostSlotNumber, (lawful.slot n).isSome = true → n = 0 := by decide +kernel
    exact h' n (by rw [h]; rfl)
  exact ⟨rfl, (Option.some.inj (h.symm.trans (by decide +kernel : lawful.slot 0 = some reading)))⟩

theorem lawful_readTags : ∀ (p : Port) (t : ReadTag),
    (lawful.port p).readTags.getLsbD t.val = decide (p = 0 ∧ t = 9) := by decide +kernel

theorem witness_StepKeepsPortLaw : LinkLaw lawful ∧ PortLaw lawful ∧ HolderLaw lawful ∧
    HoldingsLaw lawful ∧ ReadTagLaw lawful := by
  unfold LinkLaw PortLaw HolderLaw HoldingsLaw ReadTagLaw
  refine ⟨by decide +kernel, ⟨?_, ?_, ?_, ?_, ?_, ?_⟩, by decide +kernel, by decide +kernel, ?_, ?_, ?_⟩
  rotate_right 3
  · intro m n x y t hmn hm hn
    exact absurd ((lawful_slot m x hm).1.trans (lawful_slot n y hn).1.symm) hmn
  · intro p t
    rw [lawful_readTags]
    constructor
    · intro h
      obtain ⟨rfl, rfl⟩ := of_decide_eq_true h
      exact ⟨0, reading, by decide +kernel, rfl, rfl, rfl⟩
    · rintro ⟨n, x, hx, rfl, hk, -⟩
      obtain ⟨rfl, rfl⟩ := lawful_slot n x hx
      exact decide_eq_true ⟨rfl, (SlotKind.read.inj hk).symm⟩
  · intro n x hx
    obtain ⟨rfl, rfl⟩ := lawful_slot n x hx
    decide +kernel
  all_goals decide +kernel

/-- Its two live records. -/
theorem lawful_live : ∀ i, (lawful.lease i).live = true → i = 0 ∨ i = 1 := by decide +kernel

theorem witness_StepKeepsExclusion : Exclusion lawful := by
  unfold Exclusion shareable
  refine ⟨by decide +kernel, ?_, ?_, by decide +kernel, by decide +kernel, by decide +kernel, ?_⟩
  · intro i j hij hi hj h
    obtain rfl | rfl := lawful_live i hi <;> obtain rfl | rfl := lawful_live j hj <;> revert hij h <;> decide +kernel
  · intro i hi
    obtain rfl | rfl := lawful_live i hi <;> decide +kernel
  · intro i hi
    obtain rfl | rfl := lawful_live i hi <;> decide +kernel

theorem witness_StepKeepsEngineLinksAndClock :
    ScrubEngineLaw lawful ∧ ClockLaw lawful ∧ lawful.pool.wf = true := by
  unfold ScrubEngineLaw ClockLaw; decide +kernel

end Sys2Proof.Tests
end

section
/-! The laws of the device, taken apart: what each says of one lease record and of one port record, and what an
effect may change so that each law is kept. Effects are compared by the states before and after them. -/

namespace Sys2Proof.Machine

open Sys2Proof.Safety

/-! ## The laws, record by record -/

/-- A record out of ACTIVE and NOTICE has no holder (R6, R85). -/
def LeaseRecord.Resting (r : LeaseRecord) : Prop := r.inForce = false → r.holders = []

/-- What the laws of holders say of one record (R5, R6). -/
def LeaseRecord.Lawful (r : LeaseRecord) : Prop :=
  (r.inForce = false → r.holders = []) ∧
  (r.inForce = true →
    1 ≤ r.holders.length ∧ r.holders.length ≤ 4 ∧ (r.holders.map (fun h => h.port)).Nodup) ∧
  (r.inForce = true → r.standing = none → r.kind = some .exclusive →
    r.holders.length = 1 ∧ ∀ h ∈ r.holders, h.right = .readWrite) ∧
  (r.kind = some .shared → ∀ h ∈ r.holders, h.right = .read) ∧
  (r.kind = some .common → r.standing.isSome = true) ∧
  (r.kind = some .exclusive → r.standing = none) ∧
  (∀ h ∈ r.holders, h.deadline = none ↔ h.term = 0)

theorem holderLaw_iff (s : State) : HolderLaw s ↔ ∀ i, (s.lease i).Lawful := Iff.rfl

/-- The pending set holds at most 64 entries, at most one of a handle (R129). -/
def NotificationUnit.Lawful (u : NotificationUnit) : Prop :=
  u.entries.length ≤ 64 ∧ (u.entries.map (fun e => e.handle)).Nodup

/-- A port record with no queued command, no tag and no notification, as every port out of ONLINE has (R40, R43, R112,
R129). -/
def PortRecord.Offline (r : PortRecord) : Prop :=
  r.commandQueue = [] ∧ r.commandTags = 0 ∧ r.readTags = 0 ∧ r.unit.entries = [] ∧ r.unit.inFlight = none ∧
    r.unit.ackTimer = none

/-- The bounds of the wait queue, and that no two entries share port and tag (R63). -/
def QueueLaw (q : List WaitEntry) : Prop :=
  q.length ≤ 32 ∧ (∀ p, (q.filter (fun e => decide (e.port = p))).length ≤ 4) ∧
    q.Pairwise (fun x y => ¬ (x.port = y.port ∧ x.tag = y.tag))

/-- The outstanding tags of a port are those of its entries (R43). -/
def TagsMatch (q : List WaitEntry) (p : Port) (tags : BitVec 8) : Prop :=
  ∀ t : CommandTag, tags.getLsbD t.val = true ↔ ∃ e ∈ q, e.port = p ∧ e.tag = t

/-- A port is holder of no non-standing lease (R150). -/
def State.HoldsNothing (s : State) (p : Port) : Prop := ∀ i, (s.lease i).standing = none → (s.lease i).holds p = false

theorem portLaw_iff (s : State) :
    PortLaw s ↔
      (∀ i, (s.lease i).Resting) ∧ QueueLaw s.waitQueue ∧ (∀ p, TagsMatch s.waitQueue p (s.port p).commandTags) ∧
        (∀ p, (s.port p).unit.Lawful) ∧
        (∀ p, (s.port p).state ≠ .online →
          s.HoldsNothing p ∧ (∀ e ∈ s.waitQueue, e.port ≠ p) ∧ (s.port p).Offline) := by
  unfold PortLaw QueueLaw
  simp only [and_assoc]
  rfl

/-- What the law of links says of one port of a part that is ready or not (R139, R140). -/
def PortRecord.LinkLawful (ready : Prop) (r : PortRecord) : Prop :=
  (r.state ≠ .fencing → r.helloPending = none) ∧ (r.linkFlag = false → r.helloPending = none) ∧
    (ready → r.linkFlag = r.lineUp ∧ (r.state = .down → r.linkFlag = false) ∧
      (r.state = .linked ∨ r.state = .online → r.linkFlag = true)) ∧
    (¬ ready → r.state = .down ∧ r.linkFlag = false)

theorem linkLaw_iff (s : State) : LinkLaw s ↔ ∀ p, (s.port p).LinkLawful (s.phase = .ready) := Iff.rfl

/-- No host slot is occupied by an access of the port. -/
def State.NoSlots (s : State) (p : Port) : Prop := ∀ n x, s.slot n = some x → x.port ≠ p

theorem State.noSlots_of_slotsOf {s : State} {p : Port} (h : s.slotsOf p = []) : s.NoSlots p := by
  intro n x hx hp
  have hmem : x ∈ s.slotsOf p := by
    simp only [State.slotsOf, List.mem_filter, List.mem_filterMap, decide_eq_true_eq]
    refine ⟨⟨some x, ?_, rfl⟩, hp⟩
    rw [← hx]
    exact List.getElem_mem _
  rw [h] at hmem
  exact absurd hmem List.not_mem_nil

/-! ## What an effect may change -/

/-- The record gives no port a lease that it did not have before, and stays lawful. -/
structure LeaseRecord.Loosens (r r' : LeaseRecord) : Prop where
  held : ∀ p, r'.standing = none → r'.holds p = true →
    r.standing = none ∧ r.holds p = true ∧ (r'.live = true → r.live = true)
  resting : r.Resting → r'.Resting
  lawful : r.Lawful → r'.Lawful

theorem LeaseRecord.Loosens.refl (r : LeaseRecord) : r.Loosens r :=
  ⟨fun _ hs hp => ⟨hs, hp, id⟩, id, id⟩

theorem LeaseRecord.Loosens.trans {a b c : LeaseRecord} (h : a.Loosens b) (h' : b.Loosens c) : a.Loosens c where
  held p hs hp := by
    obtain ⟨hs', hp', hl'⟩ := h'.held p hs hp
    obtain ⟨hs'', hp'', hl''⟩ := h.held p hs' hp'
    exact ⟨hs'', hp'', hl'' ∘ hl'⟩
  resting := h'.resting ∘ h.resting
  lawful := h'.lawful ∘ h.lawful

theorem LeaseRecord.Loosens.counts {r r' : LeaseRecord} (h : r.Loosens r') {p : Port}
    (hc : r'.countsFor p = true) : r.countsFor p = true := by
  simp only [LeaseRecord.countsFor, Bool.and_eq_true, Option.isNone_iff_eq_none] at hc ⊢
  obtain ⟨⟨hl, hs⟩, hp⟩ := hc
  obtain ⟨hs', hp', hl'⟩ := h.held p hs hp
  exact ⟨⟨hl' hl, hs'⟩, hp'⟩

/-- The port's part of the port laws is kept: tags as they were, a lawful pending set, and nothing in store out of
ONLINE, which the port does not leave. -/
structure PortRecord.Quiet (r r' : PortRecord) : Prop where
  tags : r'.commandTags = r.commandTags
  unit : r.unit.Lawful → r'.unit.Lawful
  offline : r'.state ≠ .online → r.state ≠ .online ∧ (r.Offline → r'.Offline)

/-- The port has no slot: its state is neither ONLINE nor FENCING (R113). -/
def PortRecord.Idle (r : PortRecord) : Prop := r.state = .down ∨ r.state = .linked

/-- What the host slots of a port rest on is unchanged. -/
structure PortRecord.SlotQuiet (r r' : PortRecord) : Prop where
  state : r'.state = r.state ∨ (r.Idle ∧ r'.Idle)
  epoch : r'.epoch = r.epoch
  readTags : r'.readTags = r.readTags

/-- What the law of links speaks of is unchanged. -/
structure PortRecord.LinkSame (r r' : PortRecord) : Prop where
  state : r'.state = r.state
  linkFlag : r'.linkFlag = r.linkFlag
  helloPending : r'.helloPending = r.helloPending
  lineUp : r'.lineUp = r.lineUp

theorem PortRecord.Quiet.trans {a b c : PortRecord} (h : a.Quiet b) (h' : b.Quiet c) : a.Quiet c where
  tags := h'.tags.trans h.tags
  unit := h'.unit ∘ h.unit
  offline hc := ⟨(h.offline (h'.offline hc).1).1, (h'.offline hc).2 ∘ (h.offline (h'.offline hc).1).2⟩

theorem PortRecord.SlotQuiet.trans {a b c : PortRecord} (h : a.SlotQuiet b) (h' : b.SlotQuiet c) : a.SlotQuiet c where
  state := by
    rcases h'.state with hs' | ⟨hb, hc⟩
    · rcases h.state with hs | ⟨ha, hb⟩
      · exact .inl (hs'.trans hs)
      · exact .inr ⟨ha, by simpa only [PortRecord.Idle, hs'] using hb⟩
    · rcases h.state with hs | ⟨ha, -⟩
      · exact .inr ⟨by simpa only [PortRecord.Idle, hs] using hb, hc⟩
      · exact .inr ⟨ha, hc⟩
  epoch := h'.epoch.trans h.epoch
  readTags := h'.readTags.trans h.readTags

theorem PortRecord.LinkSame.trans {a b c : PortRecord} (h : a.LinkSame b) (h' : b.LinkSame c) : a.LinkSame c :=
  ⟨h'.state.trans h.state, h'.linkFlag.trans h.linkFlag, h'.helloPending.trans h.helloPending,
    h'.lineUp.trans h.lineUp⟩

theorem PortRecord.LinkSame.lawful {ready : Prop} {r r' : PortRecord} (h : r.LinkSame r') (hl : r.LinkLawful ready) :
    r'.LinkLawful ready := by
  simpa only [PortRecord.LinkLawful, h.state, h.linkFlag, h.helloPending, h.lineUp] using hl

/-- All that an effect at a port may change when it starts no session and ends none. -/
structure PortRecord.Calm (r r' : PortRecord) : Prop where
  quiet : r.Quiet r'
  slots : r.SlotQuiet r'
  link : r.LinkSame r'

theorem PortRecord.Calm.refl (r : PortRecord) : r.Calm r :=
  ⟨⟨rfl, id, fun h => ⟨h, id⟩⟩, ⟨.inl rfl, rfl, rfl⟩, ⟨rfl, rfl, rfl, rfl⟩⟩

theorem PortRecord.Calm.trans {a b c : PortRecord} (h : a.Calm b) (h' : b.Calm c) : a.Calm c :=
  ⟨h.quiet.trans h'.quiet, h.slots.trans h'.slots, h.link.trans h'.link⟩

/-! ## The laws carried over -/

/-- The laws of the ports pass over an effect that gives out no lease and leaves the wait queue and the ports' part
quiet. -/
theorem portLaw_of_quiet {s t : State} (hl : ∀ i, (s.lease i).Loosens (t.lease i)) (hq : t.waitQueue = s.waitQueue)
    (hp : ∀ p, (s.port p).Quiet (t.port p)) (h : PortLaw s) : PortLaw t := by
  rw [portLaw_iff] at h ⊢
  obtain ⟨hrest, hqueue, htags, hunit, hoff⟩ := h
  rw [hq]
  refine ⟨fun i => (hl i).resting (hrest i), hqueue, fun p => ?_, fun p => (hp p).unit (hunit p), fun p ho => ?_⟩
  · rw [(hp p).tags]; exact htags p
  · obtain ⟨hs, hr⟩ := (hp p).offline ho
    obtain ⟨hnone, hwait, hclear⟩ := hoff p hs
    refine ⟨fun i hst => ?_, hwait, hr hclear⟩
    by_contra hh
    obtain ⟨hst', hh', -⟩ := (hl i).held p hst (by simpa using hh)
    exact absurd (hnone i hst') (by simp [hh'])

theorem holderLaw_of_loosens {s t : State} (hl : ∀ i, (s.lease i).Loosens (t.lease i)) (h : HolderLaw s) :
    HolderLaw t := fun i => (hl i).lawful (h i)

/-- The leases held by a port, counted over the record indices. -/
theorem State.leasesHeld_eq_card (s : State) (p : Port) :
    s.leasesHeld p = (Finset.univ.filter (fun i : RecordIndex => (s.lease i).countsFor p = true)).card := by
  have hl : s.leases.toList = (List.finRange 256).map s.lease := by
    refine List.ext_getElem (by simp) fun n h1 h2 => ?_
    simp [State.lease]
  unfold State.leasesHeld
  rw [hl, List.filter_map, List.length_map, ← List.toFinset_card_of_nodup ((List.nodup_finRange 256).filter _)]
  congr 1
  ext i
  simp

theorem State.leasesHeld_le {s t : State} {p : Port}
    (h : ∀ i, (t.lease i).countsFor p = true → (s.lease i).countsFor p = true) : t.leasesHeld p ≤ s.leasesHeld p := by
  rw [State.leasesHeld_eq_card, State.leasesHeld_eq_card]
  exact Finset.card_le_card fun i hi => by simpa using h i (by simpa using hi)

/-- One record more may count. -/
theorem State.leasesHeld_le_succ {s t : State} {p : Port} (i : RecordIndex)
    (h : ∀ j, j ≠ i → (t.lease j).countsFor p = true → (s.lease j).countsFor p = true) :
    t.leasesHeld p ≤ s.leasesHeld p + 1 := by
  rw [State.leasesHeld_eq_card, State.leasesHeld_eq_card]
  refine (Finset.card_le_card (t := insert i _) fun j hj => ?_).trans (Finset.card_insert_le i _)
  by_cases hji : j = i
  · simp [hji]
  · simpa [hji] using h j hji (by simpa using hj)

theorem holdingsLaw_of_loosens {s t : State} (hl : ∀ i, (s.lease i).Loosens (t.lease i))
    (hr : s.running.inRange = true → t.running.inRange = true) (h : HoldingsLaw s) : HoldingsLaw t :=
  ⟨hr h.1, fun p => (State.leasesHeld_le fun i => (hl i).counts).trans (h.2 p)⟩

theorem readTagLaw_of_quiet {s t : State} (hn : t.hostSlots = s.hostSlots)
    (hp : ∀ p, (s.port p).SlotQuiet (t.port p)) (h : ReadTagLaw s) : ReadTagLaw t := by
  have hslot : ∀ n, t.slot n = s.slot n := fun n => by simp [State.slot, hn]
  obtain ⟨huniq, htags, hslots⟩ := h
  refine ⟨?_, ?_, ?_⟩
  · simpa only [hslot] using huniq
  · intro p t'
    simpa only [hslot, (hp p).readTags] using htags p t'
  · intro n x hx
    rw [hslot] at hx
    obtain ⟨he, hs, ho⟩ := hslots n x hx
    have hstate : (t.port x.port).state = (s.port x.port).state := by
      rcases (hp x.port).state with h' | ⟨hi, -⟩
      · exact h'
      · rcases hi with hi | hi <;> simp [hi] at hs
    rw [hstate, (hp x.port).epoch]
    exact ⟨he, hs, ho⟩

theorem linkLaw_of_same {s t : State} (hphase : t.phase = .ready ↔ s.phase = .ready)
    (hp : ∀ p, (s.port p).LinkSame (t.port p)) (h : LinkLaw s) : LinkLaw t := by
  rw [linkLaw_iff] at h ⊢
  intro p
  rw [hphase]
  exact (hp p).lawful (h p)

end Sys2Proof.Machine
end

section
/-! Effects that give nothing out. `State.Talks`: only the ports' lists and notification units change. `State.Calm`:
besides, leases may be taken away, and whatever the laws do not speak of may change. Every shared operation on packets,
notifications and the lease table is one of these, and they keep all the laws. -/

namespace Sys2Proof.Machine

open Sys2Proof.Safety

/-! ## The relations -/

theorem PortRecord.Calm.of_fields {r r' : PortRecord} (hs : r'.state = r.state) (hf : r'.linkFlag = r.linkFlag)
    (hh : r'.helloPending = r.helloPending) (hl : r'.lineUp = r.lineUp) (he : r'.epoch = r.epoch)
    (ht : r'.commandTags = r.commandTags) (hr : r'.readTags = r.readTags)
    (hu : r.unit.Lawful → r'.unit.Lawful) (ho : r.state ≠ .online → r.Offline → r'.Offline) : r.Calm r' :=
  ⟨⟨ht, hu, fun h => ⟨hs ▸ h, ho (hs ▸ h)⟩⟩, ⟨.inl hs, he, hr⟩, ⟨hs, hf, hh, hl⟩⟩

/-- Only the ports change, and those calmly. -/
structure State.Talks (s t : State) : Prop where
  eq : t = { s with ports := t.ports }
  ports : ∀ p, (s.port p).Calm (t.port p)

theorem State.Talks.refl (s : State) : s.Talks s := ⟨rfl, fun _ => .refl _⟩

theorem State.Talks.trans {a b c : State} (h : a.Talks b) (h' : b.Talks c) : a.Talks c :=
  ⟨by rw [h'.eq, h.eq], fun p => (h.ports p).trans (h'.ports p)⟩

theorem State.Talks.setPort {s : State} {p : Port} {r : PortRecord} (h : (s.port p).Calm r) :
    s.Talks (s.setPort p r) := by
  refine ⟨rfl, fun q => ?_⟩
  rw [State.port_setPort]
  split
  · next hpq => exact hpq ▸ h
  · exact .refl _

theorem State.Talks.setLease {s t : State} (h : s.Talks t) (i : RecordIndex) (r : LeaseRecord) :
    (s.setLease i r).Talks (t.setLease i r) :=
  ⟨by rw [h.eq]; rfl, h.ports⟩

theorem State.Talks.setSlot {s t : State} (h : s.Talks t) (n : HostSlotNumber) (x : Option HostSlot) :
    (s.setSlot n x).Talks (t.setSlot n x) :=
  ⟨by rw [h.eq]; rfl, h.ports⟩

theorem State.Talks.setQueue {s t : State} (h : s.Talks t) (q : List WaitEntry) :
    State.Talks { s with waitQueue := q } { t with waitQueue := q } :=
  ⟨by rw [h.eq], h.ports⟩

theorem State.Talks.lease {s t : State} (h : s.Talks t) (i : RecordIndex) : t.lease i = s.lease i := by rw [h.eq]; rfl

/-- Nothing is given out: no lease, no session, no place in the wait queue or in a host slot. -/
structure State.Calm (s t : State) : Prop where
  leases : ∀ i, (s.lease i).Loosens (t.lease i)
  ports : ∀ p, (s.port p).Calm (t.port p)
  waitQueue : t.waitQueue = s.waitQueue
  hostSlots : t.hostSlots = s.hostSlots
  running : s.running.inRange = true → t.running.inRange = true
  phase : t.phase = .ready ↔ s.phase = .ready
  clock : ClockLaw s → ClockLaw t
  pool : s.pool.wf = true → t.pool.wf = true

theorem State.Calm.trans {a b c : State} (h : a.Calm b) (h' : b.Calm c) : a.Calm c where
  leases i := (h.leases i).trans (h'.leases i)
  ports p := (h.ports p).trans (h'.ports p)
  waitQueue := h'.waitQueue.trans h.waitQueue
  hostSlots := h'.hostSlots.trans h.hostSlots
  running := h'.running ∘ h.running
  phase := h'.phase.trans h.phase
  clock := h'.clock ∘ h.clock
  pool := h'.pool ∘ h.pool

/-- An effect on nothing that the laws speak of, but for the scrub engine. -/
theorem State.Calm.of_fields {s t : State} (hl : t.leases = s.leases) (hp : t.ports = s.ports)
    (hw : t.waitQueue = s.waitQueue) (hn : t.hostSlots = s.hostSlots) (hr : t.running = s.running)
    (hph : t.phase = s.phase) (hc : t.clock = s.clock) (hpool : s.pool.wf = true → t.pool.wf = true) : s.Calm t where
  leases i := by rw [State.lease_eq_of_leases_eq hl]; exact .refl _
  ports p := by rw [State.port_eq_of_ports_eq hp]; exact .refl _
  waitQueue := hw
  hostSlots := hn
  running := by rw [hr]; exact id
  phase := by rw [hph]
  clock := by unfold ClockLaw; rw [hph, hc]; exact id
  pool := hpool

theorem State.Calm.refl (s : State) : s.Calm s := .of_fields rfl rfl rfl rfl rfl rfl rfl id

theorem State.Talks.calm {s t : State} (h : s.Talks t) : s.Calm t where
  leases i := by rw [h.lease]; exact .refl _
  ports := h.ports
  waitQueue := by rw [h.eq]
  hostSlots := by rw [h.eq]
  running := by rw [h.eq]; exact id
  phase := by rw [h.eq]
  clock := by rw [h.eq]; exact id
  pool := by rw [h.eq]; exact id

theorem State.Calm.setLease {s : State} {i : RecordIndex} {r : LeaseRecord} (h : (s.lease i).Loosens r) :
    s.Calm (s.setLease i r) where
  leases j := by
    rw [State.lease_setLease]
    split
    · next hij => exact hij ▸ h
    · exact .refl _
  ports _ := .refl _
  waitQueue := rfl
  hostSlots := rfl
  running := id
  phase := .rfl
  clock := id
  pool := id

/-- The premises of every law of a part: the law of links and the port laws. -/
structure State.Sound (s : State) : Prop where
  link : LinkLaw s
  port : PortLaw s

/-- The laws that an effect keeps, but for those of read tags and of the scrub engine. -/
structure State.Keeps (s t : State) : Prop where
  sound : s.Sound → t.Sound
  holder : s.Sound → HolderLaw s → HolderLaw t
  holdings : s.Sound → HoldingsLaw s → HoldingsLaw t
  clock : ClockLaw s → ClockLaw t
  pool : s.pool.wf = true → t.pool.wf = true

theorem State.Keeps.refl (s : State) : s.Keeps s := ⟨id, fun _ => id, fun _ => id, id, id⟩

theorem State.Keeps.trans {a b c : State} (h : a.Keeps b) (h' : b.Keeps c) : a.Keeps c where
  sound := h'.sound ∘ h.sound
  holder ha := h'.holder (h.sound ha) ∘ h.holder ha
  holdings ha := h'.holdings (h.sound ha) ∘ h.holdings ha
  clock := h'.clock ∘ h.clock
  pool := h'.pool ∘ h.pool

/-- An effect that keeps the laws of a part that was sound when the event began. -/
theorem State.Keeps.trans_of_sound {a b c : State} (h : a.Keeps b) (h' : a.Sound → b.Keeps c)
    (hc : ClockLaw b → ClockLaw c) (hp : b.pool.wf = true → c.pool.wf = true) : a.Keeps c where
  sound ha := (h' ha).sound (h.sound ha)
  holder ha := (h' ha).holder (h.sound ha) ∘ h.holder ha
  holdings ha := (h' ha).holdings (h.sound ha) ∘ h.holdings ha
  clock := hc ∘ h.clock
  pool := hp ∘ h.pool

theorem State.Calm.keeps {s t : State} (h : s.Calm t) : s.Keeps t where
  sound hs := ⟨linkLaw_of_same h.phase (fun p => (h.ports p).link) hs.link,
    portLaw_of_quiet h.leases h.waitQueue (fun p => (h.ports p).quiet) hs.port⟩
  holder _ := holderLaw_of_loosens h.leases
  holdings _ := holdingsLaw_of_loosens h.leases h.running
  clock := h.clock
  pool := h.pool

theorem State.Calm.readTagLaw {s t : State} (h : s.Calm t) : ReadTagLaw s → ReadTagLaw t :=
  readTagLaw_of_quiet h.hostSlots fun p => (h.ports p).slots

theorem State.noSlots_of_hostSlots {s t : State} (h : t.hostSlots = s.hostSlots) {p : Port} (hn : s.NoSlots p) :
    t.NoSlots p := fun n x hx => hn n x (by rw [← hx, State.slot, State.slot, h])

/-- The law of the scrub engine is kept (R94, R95). -/
def State.EngineKept (s t : State) : Prop := ScrubEngineLaw s → ScrubEngineLaw t

theorem State.EngineKept.of_fields {s t : State} (hp : t.phase = s.phase) (hs : t.scrubSlot = s.scrubSlot)
    (hq : t.scrubQueue = s.scrubQueue) : s.EngineKept t := by
  unfold State.EngineKept ScrubEngineLaw
  rw [hp, hs, hq]
  exact id

/-! ## The same of an event under way -/

/-- A calm effect of an event under way: no fence is to end that was not. -/
structure Work.Calm (w w' : Work) : Prop where
  st : w.st.Calm w'.st
  engine : w.st.EngineKept w'.st
  ending : w'.ending = w.ending

theorem Work.Calm.refl (w : Work) : w.Calm w := ⟨.refl _, id, rfl⟩

theorem Work.Calm.trans {a b c : Work} (h : a.Calm b) (h' : b.Calm c) : a.Calm c :=
  ⟨h.st.trans h'.st, h'.engine ∘ h.engine, h'.ending.trans h.ending⟩

/-- An effect of an event under way that keeps the laws, with no fence to end that was not, and no host slot given to a
port that had none. -/
structure Work.Keeps (w w' : Work) : Prop where
  st : w.st.Keeps w'.st
  readTag : ReadTagLaw w.st → ReadTagLaw w'.st
  engine : w.st.EngineKept w'.st
  ending : w'.ending = w.ending
  noSlots : ∀ p, w.st.NoSlots p → w'.st.NoSlots p

theorem Work.Keeps.refl (w : Work) : w.Keeps w := ⟨.refl _, id, id, rfl, fun _ => id⟩

theorem Work.Keeps.trans {a b c : Work} (h : a.Keeps b) (h' : b.Keeps c) : a.Keeps c :=
  ⟨h.st.trans h'.st, h'.readTag ∘ h.readTag, h'.engine ∘ h.engine, h'.ending.trans h.ending,
    fun p => h'.noSlots p ∘ h.noSlots p⟩

theorem Work.Calm.keeps {w w' : Work} (h : w.Calm w') : w.Keeps w' :=
  ⟨h.st.keeps, h.st.readTagLaw, h.engine, h.ending, fun _ => State.noSlots_of_hostSlots h.st.hostSlots⟩

theorem Work.Calm.needScan (w : Work) : w.Calm w.needScan := ⟨.refl _, id, rfl⟩

theorem Work.Calm.overflow (w : Work) (p : Port) : w.Calm (w.overflow p) := by
  unfold Work.overflow
  split
  · exact .refl w
  · exact ⟨.refl _, id, rfl⟩

/-- A talk of an event under way. -/
structure Work.Talks (w w' : Work) : Prop where
  st : w.st.Talks w'.st
  ending : w'.ending = w.ending

theorem Work.Talks.refl (w : Work) : w.Talks w := ⟨.refl _, rfl⟩

theorem Work.Talks.trans {a b c : Work} (h : a.Talks b) (h' : b.Talks c) : a.Talks c :=
  ⟨h.st.trans h'.st, h'.ending.trans h.ending⟩

theorem Work.Talks.calm {w w' : Work} (h : w.Talks w') : w.Calm w' :=
  ⟨h.st.calm, .of_fields (by rw [h.st.eq]) (by rw [h.st.eq]) (by rw [h.st.eq]), h.ending⟩

theorem Work.Talks.setPort (w : Work) {p : Port} {r : PortRecord} (h : (w.st.port p).Calm r) :
    w.Talks (w.onState (fun s => s.setPort p r)) := ⟨.setPort h, rfl⟩

theorem Work.Talks.overflow (w : Work) (p : Port) : w.Talks (w.overflow p) :=
  ⟨by rw [Work.overflow_st]; exact .refl _, (Work.Calm.overflow w p).ending⟩

/-! ## Packets and notifications -/

theorem Work.send_talks (w : Work) (p : Port) (k : OutPacket) : w.Talks (w.send p k) := by
  unfold Work.send
  extract_lets r
  split
  · exact .setPort w (.of_fields rfl rfl rfl rfl rfl rfl rfl id fun _ => id)
  · split
    · exact .overflow w p
    · exact .refl w

theorem Work.respond_talks (w : Work) (p : Port) (tag : CommandTag) (a : Answer) : w.Talks (w.respond p tag a) :=
  w.send_talks p _

/-- A unit's change at an ONLINE port is calm when the pending set stays lawful. -/
theorem PortRecord.Calm.setUnit {r : PortRecord} {u : NotificationUnit} (ho : r.state = .online)
    (hu : r.unit.Lawful → u.Lawful) : r.Calm { r with unit := u } :=
  .of_fields rfl rfl rfl rfl rfl rfl rfl hu fun hn => absurd ho hn

theorem Work.deliver_talks (w : Work) (p : Port) (ho : (w.st.port p).state = .online) : w.Talks (w.deliver p) := by
  rcases w.deliver_cases p with ⟨-, h⟩ | ⟨e, rest, he, h⟩ <;> rw [h]
  · exact .refl w
  · refine (Work.Talks.setPort w (PortRecord.Calm.setUnit ho ?_)).trans (Work.send_talks _ _ _)
    rintro ⟨hlen, hnodup⟩
    rw [he] at hlen hnodup
    exact ⟨(Nat.le_succ _).trans hlen, (List.nodup_cons.1 hnodup).2⟩

theorem replaceEntry_handles (h : Handle) (e : NoticeEvent) (l : List PendingEntry) :
    (replaceEntry h e l).map (fun x => x.handle) = l.map (fun x => x.handle) := by
  unfold replaceEntry
  rw [List.map_map]
  refine List.map_congr_left fun x _ => ?_
  simp only [Function.comp_apply]
  split
  · next hx => exact hx.1.symm
  · rfl

/-- An event joins a pending set with room that has none of its handle. -/
theorem NotificationUnit.Lawful.append {u : NotificationUnit} {h : Handle} {e : NoticeEvent} (hu : u.Lawful)
    (hlen : u.entries.length < 64) (hnew : u.entries.any (fun x => decide (x.handle = h)) = false) :
    NotificationUnit.Lawful { u with entries := u.entries ++ [⟨h, e⟩] } := by
  have hne : ∀ x ∈ u.entries, x.handle ≠ h := by simpa using hnew
  obtain ⟨-, hnodup⟩ := hu
  refine ⟨by simpa using hlen, ?_⟩
  simp only [List.map_append, List.map_cons, List.map_nil, List.nodup_append, List.mem_map, List.mem_singleton]
  refine ⟨hnodup, List.nodup_singleton _, ?_⟩
  rintro _ ⟨x, hx, rfl⟩ _ rfl
  exact hne x hx

theorem Work.raise_talks (w : Work) (p : Port) (h : Handle) (e : NoticeEvent) : w.Talks (w.raise p h e) := by
  unfold Work.raise
  extract_lets r _ w'
  split
  · exact .refl w
  · next ho =>
    replace ho : (w.st.port p).state = .online := not_not.1 ho
    split
    · refine .setPort w (PortRecord.Calm.setUnit ho ?_)
      rintro ⟨hlen, hnodup⟩
      refine ⟨?_, by rw [replaceEntry_handles]; exact hnodup⟩
      rw [replaceEntry, List.length_map]
      exact hlen
    · next hnew =>
      split
      · next hlen =>
        have hput : w.Talks w' :=
          .setPort w (PortRecord.Calm.setUnit ho fun hu => hu.append hlen (by simpa using hnew))
        split
        · exact hput.trans (Work.deliver_talks _ p (by simpa [w', r] using ho))
        · exact hput
      · exact .overflow w p

theorem Work.raiseHolders_talks (w : Work) (i : RecordIndex) (e : NoticeEvent) : w.Talks (w.raiseHolders i e) :=
  Work.raiseHolders_keeps (Q := w.Talks) (fun _ _ _ _ hx => hx.trans (Work.raise_talks _ _ _ _)) w i e (.refl w)

/-! ## The lease table -/

theorem LeaseRecord.lawful_of_no_holders {r r' : LeaseRecord} (hh : r'.holders = []) (hf : r'.inForce = false)
    (hk : r'.kind = r.kind) (hs : r'.standing = r.standing) (h : r.Lawful) : r'.Lawful := by
  obtain ⟨-, -, -, -, hcommon, hexcl, -⟩ := h
  rw [← hk, ← hs] at hcommon hexcl
  exact ⟨fun _ => hh, by simp [hf], by simp [hf], by simp [hh], hcommon, hexcl, by simp [hh]⟩

theorem LeaseRecord.lawful_emptyRecord (g : BitVec 16) : (emptyRecord g).Lawful := by
  simp [LeaseRecord.Lawful, emptyRecord, LeaseRecord.inForce]

theorem LeaseRecord.Loosens.emptyRecord (r : LeaseRecord) (g : BitVec 16) : r.Loosens (emptyRecord g) :=
  ⟨fun p _ hp => by simp [Machine.emptyRecord, LeaseRecord.holds] at hp, fun _ _ => rfl,
    fun _ => LeaseRecord.lawful_emptyRecord g⟩

/-- A change of nothing that the laws of holders speak of. -/
theorem LeaseRecord.Loosens.of_fields {r r' : LeaseRecord} (hst : r'.state = r.state) (hk : r'.kind = r.kind)
    (hs : r'.standing = r.standing) (hh : r'.holders = r.holders) : r.Loosens r' where
  held p := by simp only [hs, LeaseRecord.holds, hh, LeaseRecord.live, hst]; exact fun a b => ⟨a, b, id⟩
  resting := by simp only [LeaseRecord.Resting, LeaseRecord.inForce, hst, hh]; exact id
  lawful := by simp only [LeaseRecord.Lawful, LeaseRecord.inForce, hst, hh, hk, hs]; exact id

theorem LeaseRecord.Loosens.toDraining (r : LeaseRecord) (c : RevokeCause) : r.Loosens (r.toDraining c) where
  held p _ hp := by simp [LeaseRecord.toDraining, LeaseRecord.holds] at hp
  resting _ _ := rfl
  lawful := LeaseRecord.lawful_of_no_holders rfl (by simp [LeaseRecord.inForce, LeaseRecord.toDraining]) rfl rfl

theorem LeaseRecord.holds_withoutHolder {r : LeaseRecord} {p q : Port} :
    (r.withoutHolder p).holds q = true ↔ r.holds q = true ∧ q ≠ p := by
  simp only [LeaseRecord.holds, LeaseRecord.withoutHolder, List.any_eq_true, List.mem_filter, decide_eq_true_eq]
  constructor
  · rintro ⟨h, ⟨hm, hp⟩, rfl⟩
    exact ⟨⟨h, hm, rfl⟩, hp⟩
  · rintro ⟨⟨h, hm, rfl⟩, hp⟩
    exact ⟨h, ⟨hm, hp⟩, rfl⟩

/-- A holder's removal that leaves another. -/
theorem LeaseRecord.Loosens.withoutHolder (r : LeaseRecord) (p : Port) (hne : (r.withoutHolder p).holders ≠ []) :
    r.Loosens (r.withoutHolder p) where
  held q hs hq := ⟨hs, (LeaseRecord.holds_withoutHolder.1 hq).1, id⟩
  resting hr hf := by simp [LeaseRecord.withoutHolder, hr hf]
  lawful := by
    have hsub : (r.withoutHolder p).holders.Sublist r.holders := List.filter_sublist
    have hpos := List.length_pos_of_ne_nil hne
    rintro ⟨hrest, hforce, hexcl, hshared, hcommon, hstand, hdeadline⟩
    refine ⟨fun hf => by simp [LeaseRecord.withoutHolder, hrest hf], fun hf => ?_, fun hf hs hk => ?_,
      fun hk h hm => hshared hk h (hsub.subset hm), hcommon, hstand, fun h hm => hdeadline h (hsub.subset hm)⟩
    · obtain ⟨-, hfour, hnodup⟩ := hforce hf
      exact ⟨hpos, hsub.length_le.trans hfour, hnodup.sublist (hsub.map _)⟩
    · obtain ⟨hone, hright⟩ := hexcl hf hs hk
      exact ⟨by have := hsub.length_le; omega, fun h hm => hright h (hsub.subset hm)⟩

/-- A port's removal at its fence, whatever is left (R76). -/
theorem LeaseRecord.Loosens.fenceOff (r : LeaseRecord) (p : Port) : r.Loosens (r.fenceOff p) := by
  unfold LeaseRecord.fenceOff
  extract_lets r'
  split
  · exact LeaseRecord.Loosens.toDraining r .fenced
  · next hne => exact LeaseRecord.Loosens.withoutHolder r p hne

/-- A lease converted to SHARED (R20). -/
theorem LeaseRecord.Loosens.converted (r : LeaseRecord) : r.Loosens r.converted where
  held p hs hp := by
    refine ⟨hs, ?_, id⟩
    simpa [LeaseRecord.holds, LeaseRecord.converted] using hp
  resting hr hf := by simp [LeaseRecord.converted, hr hf]
  lawful := by
    rintro ⟨hrest, hforce, -, -, -, -, hdeadline⟩
    refine ⟨fun hf => by simp [LeaseRecord.converted, hrest hf], fun hf => ?_, ?_, ?_, ?_, ?_, ?_⟩
    · simpa [LeaseRecord.converted, Function.comp_def] using hforce hf
    · simp [LeaseRecord.converted]
    · simp [LeaseRecord.converted]
    · simp [LeaseRecord.converted]
    · simp [LeaseRecord.converted]
    · simpa [LeaseRecord.converted] using hdeadline

/-- A holder's term renewed (R22). -/
theorem State.renewedRecord_loosens (s : State) (i : RecordIndex) (p : Port) (term : Nat) :
    (s.lease i).Loosens (s.renewedRecord i p term) := by
  have hports : (s.renewedRecord i p term).holders.map (fun h => h.port) =
      (s.lease i).holders.map (fun h => h.port) := by
    simp only [State.renewedRecord, List.map_map]
    refine List.map_congr_left fun h _ => ?_
    simp only [Function.comp_apply]
    split <;> rfl
  have hlen : (s.renewedRecord i p term).holders.length = (s.lease i).holders.length := List.length_map ..
  have hholds : ∀ q, (s.renewedRecord i p term).holds q = (s.lease i).holds q := by
    intro q
    have := congrArg (List.any · (fun x => decide (x = q))) hports
    unfold LeaseRecord.holds
    simpa only [List.any_map, Function.comp_def] using this
  have hmem : ∀ h ∈ (s.renewedRecord i p term).holders, ∃ h' ∈ (s.lease i).holders, h.right = h'.right ∧
      ((h.term = h'.term ∧ h.deadline = h'.deadline) ∨ (h.term = term ∧ h.deadline = s.holderDeadline term)) := by
    intro h hm
    simp only [State.renewedRecord, List.mem_map] at hm
    obtain ⟨h', hm', rfl⟩ := hm
    refine ⟨h', hm', ?_⟩
    split <;> simp
  refine ⟨fun q hs hq => ⟨hs, by rwa [hholds] at hq, id⟩, fun hr hf => ?_, ?_⟩
  · exact List.eq_nil_of_length_eq_zero (by rw [hlen, hr hf]; rfl)
  · rintro ⟨hrest, hforce, hexcl, hshared, hcommon, hstand, hdeadline⟩
    refine ⟨fun hf => List.eq_nil_of_length_eq_zero (by rw [hlen, hrest hf]; rfl), fun hf => ?_, fun hf hs hk => ?_,
      fun hk h hm => ?_, hcommon, hstand, fun h hm => ?_⟩
    · rw [hlen, hports]; exact hforce hf
    · obtain ⟨hone, hright⟩ := hexcl hf hs hk
      refine ⟨hlen.trans hone, fun h hm => ?_⟩
      obtain ⟨h', hm', he, -⟩ := hmem h hm
      exact he.trans (hright h' hm')
    · obtain ⟨h', hm', he, -⟩ := hmem h hm
      exact he.trans (hshared hk h' hm')
    · obtain ⟨h', hm', -, ⟨ht, hd⟩ | ⟨ht, hd⟩⟩ := hmem h hm
      · rw [ht, hd]; exact hdeadline h' hm'
      · rw [ht, hd, State.holderDeadline]; split <;> simp_all

/-- Notice given to a lease in force (R79). -/
theorem LeaseRecord.Loosens.notice (r : LeaseRecord) (n : Option Notice) (c : Option RevokeCause)
    (hf : r.inForce = true) : r.Loosens { r with state := .notice, notice := n, revokeCause := c } where
  held p hs hp := ⟨hs, hp, fun _ => by
    simp only [LeaseRecord.inForce, decide_eq_true_eq] at hf
    rcases hf with hf | hf <;> simp [LeaseRecord.live, hf]⟩
  resting _ hn := by simp [LeaseRecord.inForce] at hn
  lawful := by
    rintro ⟨-, hforce, hexcl, hshared, hcommon, hstand, hdeadline⟩
    exact ⟨fun hn => by simp [LeaseRecord.inForce] at hn, fun _ => hforce hf, fun _ => hexcl hf, hshared, hcommon,
      hstand, hdeadline⟩

/-! ## Retirement, drains and the loss of holders -/

theorem Work.Calm.setLease (w : Work) {i : RecordIndex} {r : LeaseRecord} (h : (w.st.lease i).Loosens r) :
    w.Calm (w.onState (fun s => s.setLease i r)) := ⟨.setLease h, .of_fields rfl rfl rfl, rfl⟩

theorem State.joinScrubQueue_calm (s : State) (e : Extent) : s.Calm (s.joinScrubQueue e) := by
  rcases s.joinScrubQueue_cases e with h | ⟨-, -, -, h⟩ <;> rw [h] <;> exact .of_fields rfl rfl rfl rfl rfl rfl rfl id

/-- An extent that joins the scrub queue of a part whose engine is lawful leaves it lawful (R94). -/
theorem State.joinScrubQueue_engine (s : State) (e : Extent) : s.EngineKept (s.joinScrubQueue e) := by
  unfold State.EngineKept ScrubEngineLaw State.joinScrubQueue State.issueZeroFill
  intro h
  cases hq : s.scrubQueue with
  | nil => by_cases hr : s.phase = .ready <;> simp_all
  | cons x rest => simp_all

theorem Work.retire_calm (w : Work) (i : RecordIndex) : w.Calm (w.retire i) := by
  have hfree : w.st.Calm (w.st.freeRecord i) := .setLease (.emptyRecord _ _)
  have hfreed : w.st.EngineKept (w.st.freeRecord i) := .of_fields rfl rfl rfl
  rcases w.retire_cases i with ⟨-, h⟩ | ⟨-, -, h⟩ | ⟨-, -, h⟩ <;> rw [h]
  · exact ⟨hfree, hfreed, rfl⟩
  · exact ⟨hfree.trans (State.joinScrubQueue_calm _ _), State.joinScrubQueue_engine _ _ ∘ hfreed, rfl⟩
  · exact (Work.Calm.setLease w (i := i) (r := { w.st.lease i with retireHeld := true })
      (.of_fields rfl rfl rfl rfl)).trans ⟨.of_fields rfl rfl rfl rfl rfl rfl rfl id, .of_fields rfl rfl rfl, rfl⟩

theorem Work.drain_calm (w : Work) (i : RecordIndex) (c : RevokeCause) : w.Calm (w.drain i c) := by
  obtain ⟨w', hw', h⟩ := w.drain_cases i c
  have hdrain : w.Calm w' := hw' ▸ .setLease w (.toDraining _ c)
  rcases h with ⟨h, -⟩ | ⟨h, -⟩ <;> rw [h]
  · exact hdrain
  · exact hdrain.trans (w'.retire_calm i)

/-- The entry to DRAINING drops the holder list, whatever it was. -/
theorem Work.drain_setHolders (w : Work) (i : RecordIndex) (l : List Holder) (c : RevokeCause) :
    (w.onState (fun s => s.setLease i { s.lease i with holders := l })).drain i c = w.drain i c := by
  have h : (w.onState (fun s => s.setLease i { s.lease i with holders := l })).onState
      (fun s => s.setLease i ((s.lease i).toDraining c)) =
        w.onState (fun s => s.setLease i ((s.lease i).toDraining c)) := by
    simp [Work.onState, State.setLease_setLease, LeaseRecord.toDraining]
  unfold Work.drain
  rw [h]

theorem Work.removeHolder_calm (w : Work) (i : RecordIndex) (p : Port) (c : RevokeCause) :
    w.Calm (w.removeHolder i p c) := by
  obtain ⟨w', hw', ⟨hne, h⟩ | ⟨-, h⟩⟩ := w.removeHolder_cases i p c <;> rw [h]
  · subst hw'
    exact .setLease w (.withoutHolder _ p (by simpa using hne))
  · have : w'.drain i c = w.drain i c := by rw [hw']; exact Work.drain_setHolders w i _ c
    rw [this]
    exact w.drain_calm i c

theorem State.setLease_lease (s : State) (i : RecordIndex) : s.setLease i (s.lease i) = s := by
  simp [State.setLease, State.lease]

/-- The event is a calm one but that the holder list of one lease differs. -/
def Work.CalmButHolders (w : Work) (i : RecordIndex) (x : Work) : Prop :=
  ∃ v l, w.Calm v ∧ x = v.onState (fun s => s.setLease i { s.lease i with holders := l })

/-- A state whose lease has another holder list is that of its own with the list put in. -/
theorem Work.calmButHolders_iff_talks {v x : Work} {i : RecordIndex} {l : List Holder}
    (h : (v.onState (fun s => s.setLease i { s.lease i with holders := l })).Talks x) :
    ∃ v', v.Talks v' ∧ x = v'.onState (fun s => s.setLease i { s.lease i with holders := l }) := by
  have hback : (v.st.setLease i { v.st.lease i with holders := l }).setLease i (v.st.lease i) = v.st := by
    rw [State.setLease_setLease, State.setLease_lease]
  have ht := h.st.setLease i (v.st.lease i)
  rw [Work.onState_st, hback] at ht
  refine ⟨x.onState (fun s => s.setLease i (v.st.lease i)), ⟨ht, h.ending⟩, ?_⟩
  have hx : x.st.lease i = { v.st.lease i with holders := l } := by
    rw [h.st.lease]; simp
  have hs : (x.st.setLease i (v.st.lease i)).setLease i { v.st.lease i with holders := l } = x.st := by
    rw [State.setLease_setLease, ← hx, State.setLease_lease]
  cases x with
  | mk st o e d => simpa [Work.onState] using hs.symm

theorem Work.revokeAll_calm (w : Work) (i : RecordIndex) : w.Calm (w.revokeAll i) := by
  have hstep : ∀ (x : Work) (h : Holder), w.CalmButHolders i x →
      w.CalmButHolders i ((x.onState (fun s => s.setLease i ((s.lease i).withoutHolder h.port))).raise h.port
        (x.st.handleOf i) (.revoked .forced)) := by
    rintro _ h ⟨v, l, hv, rfl⟩
    have hset : (v.onState (fun s => s.setLease i { s.lease i with holders := l })).onState
        (fun s => s.setLease i ((s.lease i).withoutHolder h.port)) =
          v.onState (fun s => s.setLease i
            { s.lease i with holders := l.filter (fun y => decide (y.port ≠ h.port)) }) := by
      simp [Work.onState, State.setLease_setLease, LeaseRecord.withoutHolder]
    rw [hset]
    obtain ⟨v', hv', heq⟩ := Work.calmButHolders_iff_talks (Work.raise_talks _ h.port _ _)
    exact ⟨v', _, hv.trans hv'.calm, heq⟩
  have hstart : w.CalmButHolders i w := by
    refine ⟨w, (w.st.lease i).holders, .refl w, ?_⟩
    exact (congrArg (fun st => { w with st := st }) (State.setLease_lease w.st i)).symm
  obtain ⟨v, l, hv, heq⟩ :=
    foldl_keeps (Q := w.CalmButHolders i) _ hstep (w.st.lease i).holders w hstart
  unfold Work.revokeAll
  rw [heq, Work.drain_setHolders]
  exact hv.trans (v.drain_calm i .forced)

theorem Work.drainOne_calm (w : Work) (i : RecordIndex) : w.Calm (w.drainOne i) := by
  obtain ⟨w', hw', h⟩ := w.drainOne_cases i
  have hcount : w.Calm w' := hw' ▸ .setLease w (.of_fields rfl rfl rfl rfl)
  rcases h with ⟨h, -⟩ | ⟨h, -⟩ <;> rw [h]
  · exact hcount
  · exact hcount.trans (w'.retire_calm i)

theorem State.setAlert_calm (s : State) (c : AlertCause) : s.Calm (s.setAlert c) :=
  .of_fields rfl rfl rfl rfl rfl rfl rfl id

theorem Work.poolError_calm (w : Work) (i : RecordIndex) (a : PoolAddress) : w.Calm (w.poolError i a) := by
  refine (Work.Calm.setLease w (i := i)
    (r := { w.st.lease i with damage := (w.st.lease i).damage.orElse (fun _ => some a) })
    (.of_fields rfl rfl rfl rfl)).trans ?_
  exact (Work.raiseHolders_talks _ i _).calm.trans ⟨State.setAlert_calm _ _, .of_fields rfl rfl rfl, rfl⟩

theorem Work.giveNotice_calm (w : Work) (i : RecordIndex) (d : ClockValue) (hf : (w.st.lease i).inForce = true) :
    w.Calm (w.giveNotice i d) :=
  (Work.Calm.setLease w (.notice _ _ _ hf)).trans (Work.raiseHolders_talks _ i _).calm

end Sys2Proof.Machine
end

section
/-! Effects that give something out or take a session away: the wait queue's entries, grants, scans, fence starts and
fence ends. With them the end of an event is settled: it keeps every law. -/

namespace Sys2Proof.Machine

open Sys2Proof.Safety

/-! ## Tags as bits -/

theorem getLsbD_addMember {w : Nat} (set : BitVec w) (n : Nat) (k : Nat) (hk : k < w) :
    (addMember set n).getLsbD k = (set.getLsbD k || decide (k = n)) := by
  simp only [addMember, BitVec.getLsbD_or, BitVec.getLsbD_twoPow]
  by_cases h : k = n
  · subst h; simp [hk]
  · simp [h, hk, Ne.symm h]

theorem getLsbD_dropMember {w : Nat} (set : BitVec w) (n : Nat) (k : Nat) (hk : k < w) :
    (dropMember set n).getLsbD k = (set.getLsbD k && decide (k ≠ n)) := by
  simp only [dropMember, BitVec.getLsbD_and, BitVec.getLsbD_not, BitVec.getLsbD_twoPow]
  by_cases h : k = n
  · subst h; simp [hk]
  · simp [h, hk, Ne.symm h]

/-! ## The wait queue -/

theorem QueueLaw.sublist {q q' : List WaitEntry} (hs : q'.Sublist q) (h : QueueLaw q) : QueueLaw q' :=
  ⟨hs.length_le.trans h.1, fun p => (hs.filter _).length_le.trans (h.2.1 p), h.2.2.sublist hs⟩

/-- No other entry of a lawful queue has an entry's port and tag. -/
theorem QueueLaw.alone {a b : List WaitEntry} {e x : WaitEntry} (h : QueueLaw (a ++ e :: b)) (hx : x ∈ a ++ b) :
    ¬ (x.port = e.port ∧ x.tag = e.tag) := by
  have hp := (List.pairwise_middle (fun {x y} hxy hyx => hxy ⟨hyx.1.symm, hyx.2.symm⟩)).1 h.2.2
  intro hxe
  exact (List.pairwise_cons.1 hp).1 x hx ⟨hxe.1.symm, hxe.2.symm⟩

/-- An entry of the wait queue of a sound part is of an ONLINE port (R63, R150). -/
theorem State.Sound.entry_online {s : State} (h : s.Sound) {e : WaitEntry} (he : e ∈ s.waitQueue) :
    (s.port e.port).state = .online := by
  obtain ⟨-, -, -, -, hoff⟩ := (portLaw_iff s).1 h.port
  by_contra hn
  exact (hoff e.port hn).2.1 e he rfl

/-- A port of a sound part with a queued command is ONLINE (R40). -/
theorem State.Sound.command_online {s : State} (h : s.Sound) {p : Port} (hc : (s.port p).commandQueue ≠ []) :
    (s.port p).state = .online := by
  obtain ⟨-, -, -, -, hoff⟩ := (portLaw_iff s).1 h.port
  by_contra hn
  exact hc (hoff p hn).2.2.1

theorem State.Sound.ready_of_not_down {s : State} (h : s.Sound) {p : Port} (hd : (s.port p).state ≠ .down) :
    s.phase = .ready := by
  by_contra hr
  exact hd ((h.link p).2.2.2 hr).1

/-- An entry that leaves takes its tag along (R43, R62). -/
theorem State.dequeue_keeps {s : State} {a b : List WaitEntry} {e : WaitEntry} (hq : s.waitQueue = a ++ e :: b) :
    s.Keeps { s.freeTag e.port e.tag with waitQueue := a ++ b } := by
  have hsub : (a ++ b).Sublist (a ++ e :: b) := (List.sublist_cons_self e b).append_left a
  have hport : ∀ p, State.port { s.freeTag e.port e.tag with waitQueue := a ++ b } p =
      if e.port = p then { s.port e.port with commandTags := dropMember (s.port e.port).commandTags e.tag.val }
      else s.port p := fun p => State.port_freeTag s e.port p e.tag
  refine ⟨fun hs => ⟨linkLaw_of_same (s := s) .rfl (fun p => ?_) hs.link, ?_⟩, fun _ h => h, fun _ h => h, id, id⟩
  · rw [hport]; split
    · next h => subst h; exact ⟨rfl, rfl, rfl, rfl⟩
    · exact ⟨rfl, rfl, rfl, rfl⟩
  · have hport' := (portLaw_iff s).1 hs.port
    rw [hq] at hport'
    obtain ⟨hrest, hqueue, htags, hunit, hoff⟩ := hport'
    refine (portLaw_iff _).2 ⟨hrest, hqueue.sublist hsub, fun p t => ?_, fun p => ?_, fun p ho => ?_⟩
    · rw [hport]
      split
      · next hp =>
        subst hp
        rw [getLsbD_dropMember _ _ _ t.isLt, Bool.and_eq_true, htags e.port t, decide_eq_true_eq]
        constructor
        · rintro ⟨⟨x, hx, hxp, rfl⟩, hne⟩
          have hxe : x ≠ e := fun h => hne (by rw [h])
          refine ⟨x, ?_, hxp, rfl⟩
          simpa [hxe] using hx
        · rintro ⟨x, hx, hxp, rfl⟩
          exact ⟨⟨x, hsub.subset hx, hxp, rfl⟩, fun h => hqueue.alone hx ⟨hxp, Fin.ext h⟩⟩
      · next hp =>
        rw [htags p t]
        refine exists_congr fun x => and_congr_left fun hx => ?_
        have hxe : x ≠ e := fun h => hp (h ▸ hx.1)
        simp [hxe]
    · rw [hport]; split
      · next hp => subst hp; exact hunit e.port
      · exact hunit p
    · have hp : e.port ≠ p := by
        rintro rfl
        rw [hport, if_pos rfl] at ho
        exact (hoff e.port ho).2.1 e (by simp) rfl
      rw [hport, if_neg hp] at ho ⊢
      exact ⟨(hoff p ho).1, fun x hx => (hoff p ho).2.1 x (hsub.subset hx), (hoff p ho).2.2⟩

theorem State.port_slotQuiet_freeTag (s : State) (p q : Port) (tag : CommandTag) :
    (s.port q).SlotQuiet ((s.freeTag p tag).port q) := by
  rw [State.port_freeTag]
  split
  · next h => subst h; exact ⟨.inl rfl, rfl, rfl⟩
  · exact ⟨.inl rfl, rfl, rfl⟩

theorem State.port_slotQuiet_holdTag (s : State) (p q : Port) (tag : CommandTag) :
    (s.port q).SlotQuiet ((s.holdTag p tag).port q) := by
  rw [State.port_holdTag]
  split
  · next h => subst h; exact ⟨.inl rfl, rfl, rfl⟩
  · exact ⟨.inl rfl, rfl, rfl⟩

/-- An ACQUIRE of an ONLINE port with a free tag joins a wait queue that has a place for it (R63, R64). -/
theorem State.enterWaitQueue_keeps {s : State} {e : WaitEntry} (ho : s.Sound → (s.port e.port).state = .online)
    (htag : s.tagOutstanding e.port e.tag = false) (hfull : s.waitFull e.port = false) :
    s.Keeps (s.enterWaitQueue e) := by
  have hport : ∀ p, (s.enterWaitQueue e).port p =
      if e.port = p then { s.port e.port with commandTags := addMember (s.port e.port).commandTags e.tag.val }
      else s.port p := fun p => State.port_holdTag s e.port p e.tag
  have hq : (s.enterWaitQueue e).waitQueue = s.waitQueue ++ [e] := rfl
  simp only [State.waitFull, decide_eq_false_iff_not, not_or, not_le] at hfull
  obtain ⟨hlen, hfour⟩ := hfull
  refine ⟨fun hs => ⟨linkLaw_of_same (s := s) .rfl (fun p => ?_) hs.link, ?_⟩, fun _ h => h, fun _ h => h, id, id⟩
  · rw [hport]; split
    · next h => subst h; exact ⟨rfl, rfl, rfl, rfl⟩
    · exact ⟨rfl, rfl, rfl, rfl⟩
  · obtain ⟨hrest, ⟨-, hper, hpair⟩, htags, hunit, hoff⟩ := (portLaw_iff s).1 hs.port
    have hnew : ∀ x ∈ s.waitQueue, ¬ (x.port = e.port ∧ x.tag = e.tag) := by
      rintro x hx ⟨hxp, hxt⟩
      have := (htags e.port e.tag).2 ⟨x, hx, hxp, hxt⟩
      rw [State.tagOutstanding, this] at htag
      cases htag
    refine (portLaw_iff _).2 ⟨hrest, ⟨?_, fun p => ?_, ?_⟩, fun p t => ?_, fun p => ?_, fun p hn => ?_⟩
    · rw [hq, List.length_append]; simpa using hlen
    · rw [hq, List.filter_append, List.length_append]
      by_cases hp : e.port = p
      · subst hp; simpa using hfour
      · simpa [hp] using hper p
    · rw [hq, List.pairwise_append]
      exact ⟨hpair, List.pairwise_singleton _ _, by simpa using hnew⟩
    · rw [hport, hq]
      split
      · next hp =>
        subst hp
        rw [getLsbD_addMember _ _ _ t.isLt, Bool.or_eq_true, htags e.port t, decide_eq_true_eq]
        simp only [List.mem_append, List.mem_singleton, or_and_right, exists_or]
        refine or_congr_right ⟨fun h => ⟨e, rfl, rfl, Fin.ext h.symm⟩, ?_⟩
        rintro ⟨x, rfl, -, rfl⟩
        rfl
      · next hp =>
        rw [htags p t]
        refine exists_congr fun x => and_congr_left fun hx => ?_
        have hxe : x ≠ e := fun h => hp (h ▸ hx.1)
        simp [hxe]
    · rw [hport]; split
      · next hp => subst hp; exact hunit e.port
      · exact hunit p
    · have hp : e.port ≠ p := by
        rintro rfl
        rw [hport, if_pos rfl] at hn
        exact hn (ho hs)
      rw [hport, if_neg hp] at hn ⊢
      refine ⟨(hoff p hn).1, fun x hx => ?_, (hoff p hn).2.2⟩
      rw [hq, List.mem_append, List.mem_singleton] at hx
      rcases hx with hx | rfl
      · exact (hoff p hn).2.1 x hx
      · exact hp

/-! ## Leases given out -/

/-- The record gives its lease to one port more at most. -/
structure LeaseRecord.Gives (r r' : LeaseRecord) (p : Port) : Prop where
  held : ∀ q, r'.standing = none → r'.holds q = true →
    q = p ∨ (r.standing = none ∧ r.holds q = true ∧ (r'.live = true → r.live = true))
  inForce : r'.inForce = true
  lawful : r.Lawful → r'.Lawful

/-- A lease given to an ONLINE port within its quota keeps the laws (R7, R27). -/
theorem State.give_keeps {s : State} {i : RecordIndex} {r : LeaseRecord} {p : Port} {n : Nat}
    (ho : s.Sound → (s.port p).state = .online) (hg : (s.lease i).Gives r p) (hquota : s.quotaAllows p n = true) :
    s.Keeps (s.setLease i r) := by
  refine ⟨fun hs => ⟨hs.link, ?_⟩, fun _ h => ?_, fun _ h => ⟨h.1, fun q => ?_⟩, id, id⟩
  · obtain ⟨hrest, hqueue, htags, hunit, hoff⟩ := (portLaw_iff s).1 hs.port
    refine (portLaw_iff _).2 ⟨fun j => ?_, hqueue, htags, hunit, fun q hn => ⟨fun j hj => ?_, (hoff q hn).2⟩⟩
    · rw [State.lease_setLease]; split
      · exact fun hf => absurd hg.inForce (by simp [hf])
      · exact hrest j
    · rw [State.lease_setLease] at hj ⊢
      split
      · next hij =>
        rw [if_pos hij] at hj
        by_contra hh
        rcases hg.held q hj (by simpa using hh) with rfl | ⟨hst, hh', -⟩
        · exact hn (ho hs)
        · exact absurd ((hoff q hn).1 i hst) (by simp [hh'])
      · next hij =>
        rw [if_neg hij] at hj
        exact (hoff q hn).1 j hj
  · refine (holderLaw_iff _).2 fun j => ?_
    rw [State.lease_setLease]; split
    · exact hg.lawful (h i)
    · exact h j
  · have hq64 : (s.policy q).leaseQuota ≤ 64 := by
      have hr := h.1
      simp only [Profile.inRange, Bool.and_eq_true, List.all_eq_true] at hr
      have := hr.1.2 (s.policy q) (by simp [State.policy])
      simp only [PortPolicy.inRange, decide_eq_true_eq] at this
      omega
    by_cases hqp : q = p
    · subst hqp
      have hle : (s.setLease i r).leasesHeld q ≤ s.leasesHeld q + 1 :=
        State.leasesHeld_le_succ i fun j hj hc => by simpa [Ne.symm hj] using hc
      simp only [State.quotaAllows, decide_eq_true_eq] at hquota
      omega
    · refine (State.leasesHeld_le fun j hc => ?_).trans (h.2 q)
      rw [State.lease_setLease] at hc
      split at hc
      · next hij =>
        subst hij
        simp only [LeaseRecord.countsFor, Bool.and_eq_true, Option.isNone_iff_eq_none] at hc ⊢
        obtain ⟨⟨hl, hst⟩, hh⟩ := hc
        rcases hg.held q hst hh with rfl | ⟨hst', hh', hl'⟩
        · exact absurd rfl hqp
        · exact ⟨⟨hl' hl, hst'⟩, hh'⟩
      · exact hc

theorem State.holderDeadline_eq_none (s : State) (term : Nat) : s.holderDeadline term = none ↔ term = 0 := by
  unfold State.holderDeadline
  split <;> simp [*]

/-- A granted record has one holder, with the right of its kind (R17). -/
theorem State.grantedRecord_gives (s : State) (i : RecordIndex) (p : Port) (k : AcquireKind) (e : Extent) (term : Nat) :
    (s.lease i).Gives (s.grantedRecord i p k e term) p where
  held q _ hq := by
    left
    simpa [State.grantedRecord, LeaseRecord.holds, eq_comm] using hq
  inForce := by simp [State.grantedRecord, LeaseRecord.inForce]
  lawful _ := by
    have hd := s.holderDeadline_eq_none term
    cases k <;> simpa [LeaseRecord.Lawful, State.grantedRecord, LeaseRecord.inForce, AcquireKind.leaseKind,
      AcquireKind.right] using hd

/-- At most four ports are distinct. -/
theorem length_le_four_of_nodup {l : List Port} (h : l.Nodup) : l.length ≤ 4 := by
  simpa using h.length_le_card

/-- A port that joins a SHARED lease in force (R19). -/
theorem State.joinedRecord_gives (s : State) (i : RecordIndex) (p : Port) (term : Nat)
    (hforce : (s.lease i).inForce = true) (hk : (s.lease i).kind = some .shared) (hh : (s.lease i).holds p = false) :
    (s.lease i).Gives (s.joinedRecord i p term) p where
  held q hs hq := by
    simp only [LeaseRecord.holds, State.joinedRecord, List.any_append, List.any_cons, List.any_nil, Bool.or_false,
      Bool.or_eq_true, decide_eq_true_eq] at hq
    rcases hq with hq | hq
    · exact .inr ⟨hs, hq, id⟩
    · exact .inl hq.symm
  inForce := hforce
  lawful := by
    rintro ⟨-, hfour, -, hshared, hcommon, hexcl, hdeadline⟩
    obtain ⟨hone, -, hnodup⟩ := hfour hforce
    have hnot : ∀ x ∈ (s.lease i).holders, x.port ≠ p := by simpa [LeaseRecord.holds] using hh
    have hnodup' : ((s.joinedRecord i p term).holders.map (fun h => h.port)).Nodup := by
      simp only [State.joinedRecord, List.map_append, List.map_cons, List.map_nil, List.nodup_append, List.mem_map,
        List.mem_singleton]
      refine ⟨hnodup, List.nodup_singleton _, ?_⟩
      rintro _ ⟨x, hx, rfl⟩ _ rfl
      exact hnot x hx
    refine ⟨fun hf => absurd (hforce.symm.trans hf) (by simp), fun _ => ⟨?_, ?_, hnodup'⟩,
      fun _ _ hx => by simp [State.joinedRecord, hk] at hx, fun _ x hx => ?_, hcommon, hexcl, fun x hx => ?_⟩
    · simp [State.joinedRecord]
    · simpa using length_le_four_of_nodup hnodup'
    · simp only [State.joinedRecord, List.mem_append, List.mem_singleton] at hx
      rcases hx with hx | rfl
      · exact hshared hk x hx
      · rfl
    · simp only [State.joinedRecord, List.mem_append, List.mem_singleton] at hx
      rcases hx with hx | rfl
      · exact hdeadline x hx
      · exact s.holderDeadline_eq_none term

/-! ## Scans (R66) -/

/-- What a scan leaves exactly as it is. -/
structure Work.ScanFrame (w w' : Work) : Prop where
  phase : w'.st.phase = w.st.phase
  clock : w'.st.clock = w.st.clock
  pool : w'.st.pool = w.st.pool
  hostSlots : w'.st.hostSlots = w.st.hostSlots
  ports : ∀ p, (w.st.port p).SlotQuiet (w'.st.port p)
  scrubSlot : w'.st.scrubSlot = w.st.scrubSlot
  scrubQueue : w'.st.scrubQueue = w.st.scrubQueue
  ending : w'.ending = w.ending

theorem Work.ScanFrame.refl (w : Work) : w.ScanFrame w :=
  ⟨rfl, rfl, rfl, rfl, fun _ => (PortRecord.Calm.refl _).slots, rfl, rfl, rfl⟩

theorem Work.ScanFrame.trans {a b c : Work} (h : a.ScanFrame b) (h' : b.ScanFrame c) : a.ScanFrame c :=
  ⟨h'.phase.trans h.phase, h'.clock.trans h.clock, h'.pool.trans h.pool, h'.hostSlots.trans h.hostSlots,
    fun p => (h.ports p).trans (h'.ports p), h'.scrubSlot.trans h.scrubSlot, h'.scrubQueue.trans h.scrubQueue,
    h'.ending.trans h.ending⟩

theorem Work.Talks.scanFrame {w w' : Work} (h : w.Talks w') : w.ScanFrame w' := by
  refine ⟨?_, ?_, ?_, ?_, fun p => (h.st.ports p).slots, ?_, ?_, h.ending⟩ <;> rw [h.st.eq]

/-- An entry that leaves takes its tag along, and whatever becomes of its lease it gets an answer. -/
theorem Work.scanFrame_answered (w : Work) {x : Work} {p : Port} {tag : CommandTag} (a : Answer)
    (h : (w.onState (fun s => s.freeTag p tag)).ScanFrame x) : w.ScanFrame (x.respond p tag a) := by
  refine Work.ScanFrame.trans (Work.ScanFrame.trans ?_ h) (Work.respond_talks x p tag a).scanFrame
  exact ⟨rfl, rfl, rfl, rfl, fun q => w.st.port_slotQuiet_freeTag p q tag, rfl, rfl, rfl⟩

theorem Work.scanEntry_frame (w : Work) (older : List WaitEntry) (e : WaitEntry) :
    w.ScanFrame (w.scanEntry older e).2 := by
  rcases w.scanEntry_cases older e with h | ⟨a, h⟩ | ⟨i, -, -, -, -, -, h⟩ <;> rw [h]
  · exact .refl w
  · exact w.scanFrame_answered a (.refl _)
  · exact w.scanFrame_answered _ ⟨rfl, rfl, rfl, rfl, fun _ => (PortRecord.Calm.refl _).slots, rfl, rfl, rfl⟩

theorem Work.scan_frame (w : Work) : w.ScanFrame w.scan := by
  have h : w.ScanFrame (w.scanEntries [] w.st.waitQueue).2 :=
    Work.scanEntries_keeps (Q := w.ScanFrame) (fun x older e hx => hx.trans (x.scanEntry_frame older e)) _ _ _
      (.refl w)
  exact ⟨h.phase, h.clock, h.pool, h.hostSlots, h.ports, h.scrubSlot, h.scrubQueue, h.ending⟩

/-- The state with another wait queue. -/
def State.withQueue (s : State) (q : List WaitEntry) : State := { s with waitQueue := q }

/-- One entry of a scan keeps the laws of the state whose queue holds the entries that stay and those to come. -/
theorem Work.scanEntry_keeps (w : Work) (older rest : List WaitEntry) (e : WaitEntry) :
    (w.st.withQueue (older ++ e :: rest)).Keeps
      ((w.scanEntry older e).2.st.withQueue
        ((if (w.scanEntry older e).1 then older ++ [e] else older) ++ rest)) := by
  rcases w.scanEntry_cases older e with h | ⟨a, h⟩ | ⟨i, -, -, -, -, hquota, h⟩ <;> rw [h]
  · simpa using State.Keeps.refl (w.st.withQueue (older ++ e :: rest))
  · exact (State.dequeue_keeps (s := w.st.withQueue (older ++ e :: rest)) rfl).trans
      ((Work.respond_talks (w.onState (fun s => s.freeTag e.port e.tag)) _ _ a).st.setQueue (older ++ rest)).calm.keeps
  · have hgive : (w.st.withQueue (older ++ e :: rest)).Keeps
        ((w.st.withQueue (older ++ e :: rest)).setLease i
          (w.st.grantedRecord i e.port e.kind e.extent e.term)) :=
      State.give_keeps (fun hs => hs.entry_online (e := e) (by simp [State.withQueue]))
        (State.grantedRecord_gives _ _ _ _ _ _) hquota
    refine hgive.trans ((State.dequeue_keeps (a := older) (b := rest) (e := e) rfl).trans ?_)
    exact ((Work.respond_talks ((w.onState (fun s => s.freeTag e.port e.tag)).onState
      (fun s => s.setLease i (s.grantedRecord i e.port e.kind e.extent e.term))) _ _ _).st.setQueue
        (older ++ rest)).calm.keeps

theorem Work.scanEntries_keeps_laws : ∀ (l : List WaitEntry) (w : Work) (older : List WaitEntry),
    (w.st.withQueue (older ++ l)).Keeps ((w.scanEntries older l).2.st.withQueue (w.scanEntries older l).1) := by
  intro l
  induction l with
  | nil => intro w older; simpa [Work.scanEntries] using State.Keeps.refl _
  | cons e rest ih =>
    intro w older
    have h := w.scanEntry_keeps older rest e
    unfold Work.scanEntries
    revert h
    rcases w.scanEntry older e with ⟨_ | _, w'⟩ <;> exact fun h => h.trans (ih _ _)

theorem Work.scan_keeps (w : Work) : w.Keeps w.scan :=
  ⟨Work.scanEntries_keeps_laws w.st.waitQueue w [], readTagLaw_of_quiet w.scan_frame.hostSlots w.scan_frame.ports,
    .of_fields w.scan_frame.phase w.scan_frame.scrubSlot w.scan_frame.scrubQueue, w.scan_frame.ending,
    fun _ => State.noSlots_of_hostSlots w.scan_frame.hostSlots⟩

/-! ## Fence starts (R76, R122, R135, R146) -/

/-- What a fence start of a port leaves: the port's record, no lease of the port, no entry of the port, and its host
slots orphaned. -/
structure State.Fenced (s t : State) (p : Port) (r : PortRecord) : Prop where
  leases : ∀ i, (s.lease i).Loosens (t.lease i)
  gone : (∀ i, (s.lease i).Resting) → t.HoldsNothing p
  ports : ∀ q, t.port q = if p = q then r else s.port q
  waitQueue : t.waitQueue = s.waitQueue.filter (fun e => decide (e.port ≠ p))
  slots : ∀ n, t.slot n = (s.slot n).map (fun y => if y.port = p then { y with orphaned := true } else y)
  running : s.running.inRange = true → t.running.inRange = true
  phase : t.phase = .ready ↔ s.phase = .ready
  clock : ClockLaw s → ClockLaw t
  pool : s.pool.wf = true → t.pool.wf = true

/-- The record of a fenced port, as far as the laws speak of it. -/
structure PortRecord.FencedFrom (r r' : PortRecord) : Prop where
  state : r'.state = .fencing
  epoch : r'.epoch = r.epoch
  offline : r'.Offline
  hello : r'.linkFlag = false → r'.helloPending = none
  flag : r'.linkFlag = r'.lineUp

theorem PortRecord.fence_fencedFrom {r r0 : PortRecord} {c : FenceCause} {hello : Option HostId}
    (he : r0.epoch = r.epoch) (hf : r0.linkFlag = r0.lineUp) (hh : r0.linkFlag = false → hello = none) :
    r.FencedFrom (r0.fence c hello) :=
  ⟨rfl, he, ⟨rfl, rfl, rfl, rfl, rfl, rfl⟩, hh, hf⟩

theorem NotificationUnit.lawful_of_empty {u : NotificationUnit} (h : u.entries = []) : u.Lawful := by
  simp [NotificationUnit.Lawful, h]

theorem State.Fenced.portLaw {s t : State} {p : Port} {r : PortRecord} (h : s.Fenced t p r) (hr : r.Offline)
    (hs : PortLaw s) : PortLaw t := by
  obtain ⟨hrest, hqueue, htags, hunit, hoff⟩ := (portLaw_iff s).1 hs
  have hsub : t.waitQueue.Sublist s.waitQueue := by rw [h.waitQueue]; exact List.filter_sublist
  have hmem : ∀ e, e ∈ t.waitQueue ↔ e ∈ s.waitQueue ∧ e.port ≠ p := by simp [h.waitQueue]
  refine (portLaw_iff t).2 ⟨fun i => (h.leases i).resting (hrest i), hqueue.sublist hsub, fun q t' => ?_, fun q => ?_,
    fun q hn => ?_⟩
  · rw [h.ports]
    split
    · next hp =>
      subst hp
      refine ⟨fun hb => by simp [hr.2.1] at hb, ?_⟩
      rintro ⟨x, hx, hxp, -⟩
      exact absurd hxp ((hmem x).1 hx).2
    · next hp =>
      rw [htags q t']
      refine exists_congr fun x => and_congr_left fun hx => ?_
      rw [hmem]
      exact ⟨fun hm => ⟨hm, fun hxp => hp (hxp.symm.trans hx.1)⟩, And.left⟩
  · rw [h.ports]; split
    · exact NotificationUnit.lawful_of_empty hr.2.2.2.1
    · exact hunit q
  · rw [h.ports] at hn ⊢
    split at hn
    · next hp =>
      subst hp
      rw [if_pos rfl]
      exact ⟨h.gone hrest, fun e he => ((hmem e).1 he).2, hr⟩
    · next hp =>
      rw [if_neg hp]
      obtain ⟨hnone, hwait, hclear⟩ := hoff q hn
      refine ⟨fun i hst => ?_, fun e he => hwait e (hsub.subset he), hclear⟩
      by_contra hh
      obtain ⟨hst', hh', -⟩ := (h.leases i).held q hst (by simpa using hh)
      exact absurd (hnone i hst') (by simp [hh'])

theorem State.Fenced.readTagLaw {s t : State} {p : Port} {r : PortRecord} (h : s.Fenced t p r)
    (hr : (s.port p).FencedFrom r) (hs : ReadTagLaw s) : ReadTagLaw t := by
  obtain ⟨huniq, htags, hslots⟩ := hs
  have hslot : ∀ n y, t.slot n = some y → ∃ x, s.slot n = some x ∧ y.port = x.port ∧ y.epoch = x.epoch ∧
      y.kind = x.kind ∧ y.orphaned = (x.orphaned || decide (x.port = p)) := by
    intro n y hy
    rw [h.slots, Option.map_eq_some_iff] at hy
    obtain ⟨x, hx, rfl⟩ := hy
    refine ⟨x, hx, ?_⟩
    split <;> simp [*]
  refine ⟨fun m n x y tag hmn hx hy hport hepoch hk => ?_, fun q tag => ?_, fun n y hy => ?_⟩
  · obtain ⟨x', hx', hxp, hxe, hxk, -⟩ := hslot m x hx
    obtain ⟨y', hy', hyp, hye, hyk, -⟩ := hslot n y hy
    rw [hyk]
    exact huniq m n x' y' tag hmn hx' hy' (by rw [← hxp, ← hyp, hport]) (by rw [← hxe, ← hye, hepoch]) (hxk ▸ hk)
  · rw [h.ports]
    split
    · next hp =>
      subst hp
      rw [hr.offline.2.2.1]
      constructor
      · intro hb; simp at hb
      · rintro ⟨n, y, hy, hyp, -, ho⟩
        obtain ⟨x, -, hxp, -, -, hxo⟩ := hslot n y hy
        simp [hxo, ← hxp, hyp] at ho
    · next hp =>
      rw [htags q tag]
      constructor
      · rintro ⟨n, x, hx, rfl, hk, ho⟩
        exact ⟨n, x, by rw [h.slots, hx]; simp [Ne.symm hp], rfl, hk, ho⟩
      · rintro ⟨n, y, hy, rfl, hk, ho⟩
        obtain ⟨x, hx, hxp, -, hxk, hxo⟩ := hslot n y hy
        rw [hxo, Bool.or_eq_false_iff] at ho
        exact ⟨n, x, hx, hxp.symm, hxk ▸ hk, ho.1⟩
  · obtain ⟨x, hx, hxp, hxe, -, hxo⟩ := hslot n y hy
    obtain ⟨he, hst, ho⟩ := hslots n x hx
    rw [h.ports, hxp, hxe, hxo]
    split
    · next hp =>
      rw [hr.epoch, hr.state]
      exact ⟨hp ▸ he, .inr rfl, by simp [hp]⟩
    · next hp => simpa [Ne.symm hp] using ⟨he, hst, ho⟩

theorem State.Fenced.keeps {s t : State} {p : Port} {r : PortRecord} (h : s.Fenced t p r)
    (hr : s.Sound → (s.port p).FencedFrom r) (hready : s.Sound → s.phase = .ready) : s.Keeps t where
  sound hs := by
    refine ⟨(linkLaw_iff t).2 fun q => ?_, h.portLaw (hr hs).offline hs.port⟩
    rw [h.phase, h.ports]
    split
    · have hf := hr hs
      refine ⟨fun hn => absurd hf.state hn, hf.hello, fun _ => ⟨hf.flag, ?_, ?_⟩, fun hn => absurd (hready hs) hn⟩
      · simp [hf.state]
      · simp [hf.state]
    · exact hs.link q
  holder _ := holderLaw_of_loosens h.leases
  holdings _ := holdingsLaw_of_loosens h.leases h.running
  clock := h.clock
  pool := h.pool

/-- A lease record that a port does not hold, unless as a standing lease. -/
def LeaseRecord.Without (r : LeaseRecord) (p : Port) : Prop := r.standing = none → r.holds p = false

theorem LeaseRecord.Loosens.without {r r' : LeaseRecord} {p : Port} (h : r.Loosens r') (hr : r.Without p) :
    r'.Without p := by
  intro hs
  by_contra hh
  obtain ⟨hs', hh', -⟩ := h.held p hs (by simpa using hh)
  exact absurd (hr hs') (by simp [hh'])

theorem LeaseRecord.without_fenceOff (r : LeaseRecord) (p : Port) : (r.fenceOff p).Without p := by
  intro _
  unfold LeaseRecord.fenceOff
  extract_lets r'
  split
  · simp [LeaseRecord.toDraining, LeaseRecord.holds]
  · by_contra hh
    exact (LeaseRecord.holds_withoutHolder.1 (by simpa using hh)).2 rfl

/-- The port taken off the records of a list is off each of them. -/
theorem Work.foldl_fenceOff_without (p : Port) (i : RecordIndex) : ∀ (l : List RecordIndex) (w : Work),
    i ∈ l ∨ (w.st.lease i).Without p →
      ((l.foldl (fun x j => x.onState (fun s => s.setLease j ((s.lease j).fenceOff p))) w).st.lease i).Without p := by
  intro l
  induction l with
  | nil => intro w h; simpa using h
  | cons j rest ih =>
    intro w h
    refine ih _ ?_
    rw [Work.onState_st, State.lease_setLease]
    by_cases hij : j = i
    · rw [if_pos hij]; exact .inr (LeaseRecord.without_fenceOff _ _)
    · rw [if_neg hij]; simpa [Ne.symm hij] using h

/-- A calm effect that touches no port. -/
structure Work.TableCalm (w w' : Work) : Prop where
  calm : w.Calm w'
  ports : w'.st.ports = w.st.ports

theorem Work.TableCalm.refl (w : Work) : w.TableCalm w := ⟨.refl w, rfl⟩

theorem Work.TableCalm.trans {a b c : Work} (h : a.TableCalm b) (h' : b.TableCalm c) : a.TableCalm c :=
  ⟨h.calm.trans h'.calm, h'.ports.trans h.ports⟩

theorem Work.retire_table (w : Work) (i : RecordIndex) : w.TableCalm (w.retire i) := by
  refine ⟨w.retire_calm i, ?_⟩
  rcases w.retire_cases i with ⟨-, h⟩ | ⟨-, -, h⟩ | ⟨-, -, h⟩ <;> rw [h]
  · rfl
  · rw [Work.needScan_st, Work.onState_st]
    rcases (w.st.freeRecord i).joinScrubQueue_cases (w.st.lease i).extent with h' | ⟨-, -, -, h'⟩ <;> rw [h'] <;> rfl
  · rfl

/-- The lease table's part of a fence start touches no port, and leaves the port no lease. -/
structure Work.LeasesFenced (w w' : Work) (p : Port) : Prop where
  table : w.TableCalm w'
  gone : (∀ i, (w.st.lease i).Resting) → w'.st.HoldsNothing p

theorem Work.fenceLeases_fenced (w : Work) (p : Port) : w.LeasesFenced (w.fenceLeases p) p := by
  have hretire : ∀ (v : Work) (l : List RecordIndex), v.TableCalm (l.foldl Work.retire v) := fun v l =>
    foldl_keeps (Q := v.TableCalm) Work.retire (fun a i ha => ha.trans (a.retire_table i)) l v (.refl v)
  have hoff : w.TableCalm ((w.st.fencedLeases p).foldl
      (fun x i => x.onState (fun s => s.setLease i ((s.lease i).fenceOff p))) w) :=
    foldl_keeps (Q := w.TableCalm) _ (fun a i ha => ha.trans ⟨.setLease a (.fenceOff _ p), rfl⟩) _ w (.refl w)
  have hchoices : ∀ (v : Work) (n : Nat), v.TableCalm (v.onState (fun s => { s with choices := s.choices + n })) :=
    fun v n => ⟨⟨.of_fields rfl rfl rfl rfl rfl rfl rfl id, .of_fields rfl rfl rfl, rfl⟩, rfl⟩
  have hoffed := fun i hi => Work.foldl_fenceOff_without p i (w.st.fencedLeases p) w hi
  unfold Work.fenceLeases
  extract_lets ids w1 done plain scrubbed w2 w3
  have hrest : w1.TableCalm (w3.onState (fun s => { s with choices := s.choices + choicesOf scrubbed.length })) :=
    ((hretire w1 plain).trans (hretire w2 _)).trans (hchoices w3 _)
  refine ⟨hoff.trans hrest, fun hr i => ?_⟩
  refine (hrest.calm.st.leases i).without (hoffed i ?_)
  by_cases hi : i ∈ w.st.fencedLeases p
  · exact .inl hi
  · refine .inr fun hs => ?_
    simp only [State.fencedLeases, List.mem_filter, List.mem_finRange, true_and, Bool.and_eq_true,
      Option.isNone_iff_eq_none, hs, and_true, not_and, Bool.not_eq_true] at hi
    cases hf : (w.st.lease i).inForce with
    | true => exact hi hf
    | false => simp [LeaseRecord.holds, hr i hf]

/-- The parts of a fence start put together. -/
theorem State.fenced_of_parts {s : State} {w1 w2 : Work} {p : Port} {r : PortRecord} {c : AlertCause}
    (h1 : w1.st = (s.setPort p r).setAlert c) (h2 : w1.LeasesFenced w2 p) :
    s.Fenced (State.orphanSlots
      { w2.st with waitQueue := w2.st.waitQueue.filter (fun e => decide (e.port ≠ p)) } p) p r := by
  obtain ⟨⟨⟨⟨hleases, -, hqueue, hslots, hrun, hphase, hclock, hpool⟩, -, -⟩, hports⟩, hgone⟩ := h2
  rw [h1] at hleases hqueue hslots hrun hphase hclock hpool hports hgone
  refine ⟨hleases, hgone, fun q => ?_, congrArg (List.filter _) hqueue, fun n => ?_, hrun, hphase, hclock, hpool⟩
  · exact (State.port_eq_of_ports_eq hports q).trans (State.port_setPort s p q r)
  · rw [State.slot_orphanSlots]
    exact congrArg (Option.map _) (congrArg (fun v : Vector (Option HostSlot) 63 => v[n]) hslots)

theorem State.engine_of_parts {s : State} {w1 w2 : Work} {p : Port} {r : PortRecord} {c : AlertCause}
    {f : WaitEntry → Bool} (h1 : w1.st = (s.setPort p r).setAlert c) (h2 : w1.LeasesFenced w2 p) :
    s.EngineKept (State.orphanSlots { w2.st with waitQueue := w2.st.waitQueue.filter f } p) := by
  have h := h2.table.calm.engine
  rw [h1] at h
  exact h

theorem Work.fenceStart_fenced (w : Work) (p : Port) (c : FenceCause) (hello : Option HostId) :
    w.st.Fenced (w.fenceStart p c hello).st p ((w.st.port p).fence c hello) := by
  rw [Work.fenceStart_st]
  exact State.fenced_of_parts (Work.onState_st _ _) (Work.fenceLeases_fenced _ p)

theorem Work.fenceStart_engine (w : Work) (p : Port) (c : FenceCause) (hello : Option HostId) :
    w.st.EngineKept (w.fenceStart p c hello).st := by
  rw [Work.fenceStart_st]
  exact State.engine_of_parts (Work.onState_st _ _) (Work.fenceLeases_fenced _ p)

/-- A fence start ends in its own event only when the port has no slot (R146). -/
theorem Work.fenceStart_ending (w : Work) (p : Port) (c : FenceCause) (hello : Option HostId) :
    ∀ q ∈ (w.fenceStart p c hello).ending, q ∈ w.ending ∨ (w.fenceStart p c hello).st.NoSlots q := by
  obtain ⟨w1, w2, w3, hw1, hw2, hw3, h⟩ := w.fenceStart_eq p c hello
  have hending : w3.ending = w.ending := by
    rw [hw3, hw2, Work.needScan_ending, Work.onState_ending, Work.onState_ending,
      (w1.fenceLeases_fenced p).table.calm.ending, hw1, Work.onState_ending]
  intro q hq
  rw [h] at hq ⊢
  split at hq
  · next hnone =>
    rw [if_pos hnone, Work.endFence_st]
    unfold Work.endFence at hq
    split at hq
    · exact .inl (hending ▸ hq)
    · simp only [List.mem_append, List.mem_singleton] at hq
      rcases hq with hq | rfl
      · exact .inl (hending ▸ hq)
      · exact .inr (State.noSlots_of_slotsOf hnone)
  · exact .inl (hending ▸ hq)

/-! ## Entry to ONLINE and fence ends (R144, R148) -/

theorem Work.enterOnline_eq (w : Work) (p : Port) (host : HostId) :
    (w.onState (fun s => s.setPort p ((s.port p).goOnline host))).Talks (w.enterOnline p host) := by
  unfold Work.enterOnline
  exact Work.send_talks _ _ _

/-- A port's record changed quietly into one that the law of links allows. -/
theorem State.setPort_keeps {s : State} {p : Port} {r : PortRecord} (hq : (s.port p).Quiet r)
    (hl : s.Sound → r.LinkLawful (s.phase = .ready)) : s.Keeps (s.setPort p r) := by
  refine ⟨fun hs => ⟨(linkLaw_iff _).2 fun q => ?_, ?_⟩, fun _ h => h, fun _ h => h, id, id⟩
  · rw [State.port_setPort]; split
    · exact hl hs
    · exact hs.link q
  · refine portLaw_of_quiet (s := s) (fun i => .refl _) rfl (fun q => ?_) hs.port
    rw [State.port_setPort]; split
    · next hpq => subst hpq; exact hq
    · exact (PortRecord.Calm.refl _).quiet

/-- The law of read tags does not mind the record of a port without a slot. -/
theorem readTagLaw_setPort {s : State} {p : Port} {r : PortRecord} (hr : r.readTags = (s.port p).readTags)
    (hno : s.NoSlots p) (h : ReadTagLaw s) : ReadTagLaw (s.setPort p r) := by
  obtain ⟨huniq, htags, hslots⟩ := h
  refine ⟨huniq, fun q t => ?_, fun n x hx => ?_⟩
  · rw [State.port_setPort]; split
    · next hpq => subst hpq; rw [hr]; exact htags p t
    · exact htags q t
  · rw [State.port_setPort, if_neg (Ne.symm (hno n x hx))]
    exact hslots n x hx

theorem PortRecord.Quiet.goOnline (r : PortRecord) (host : HostId) : r.Quiet (r.goOnline host) :=
  ⟨rfl, id, fun h => absurd rfl h⟩

/-- The laws that a change of a port's session keeps, that of read tags only when the port has no slot. -/
structure Work.PortMoved (w w' : Work) (p : Port) : Prop where
  st : w.st.Keeps w'.st
  readTag : w.st.NoSlots p → ReadTagLaw w.st → ReadTagLaw w'.st
  engine : w.st.EngineKept w'.st
  ending : w'.ending = w.ending
  noSlots : ∀ q, w.st.NoSlots q → w'.st.NoSlots q

theorem Work.PortMoved.setPort (w : Work) {p : Port} {r : PortRecord} (hq : (w.st.port p).Quiet r)
    (hl : w.st.Sound → r.LinkLawful (w.st.phase = .ready)) (hr : r.readTags = (w.st.port p).readTags) :
    w.PortMoved (w.onState (fun s => s.setPort p r)) p :=
  ⟨State.setPort_keeps hq hl, readTagLaw_setPort hr, .of_fields rfl rfl rfl, rfl, fun _ h => h⟩

theorem Work.PortMoved.trans {a b c : Work} {p : Port} (h : a.PortMoved b p) (h' : b.Keeps c) : a.PortMoved c p :=
  ⟨h.st.trans h'.st, fun hn => h'.readTag ∘ h.readTag hn, h'.engine ∘ h.engine, h'.ending.trans h.ending,
    fun q => h'.noSlots q ∘ h.noSlots q⟩

/-- An entry to ONLINE of a port with a link. -/
theorem Work.enterOnline_moved (w : Work) (p : Port) (host : HostId)
    (hl : w.st.Sound → (w.st.port p).linkFlag = true ∧ (w.st.port p).state ≠ .down) :
    w.PortMoved (w.enterOnline p host) p := by
  refine Work.PortMoved.trans (b := w.onState (fun s => s.setPort p ((s.port p).goOnline host)))
    (.setPort w (.goOnline _ host) (fun hs => ?_) rfl) (w.enterOnline_eq p host).calm.keeps
  obtain ⟨hflag, hdown⟩ := hl hs
  obtain ⟨-, -, hready, hnot⟩ := hs.link p
  refine ⟨fun _ => rfl, fun _ => rfl, fun hr => ⟨(hready hr).1, ?_, fun _ => hflag⟩,
    fun hr => absurd (hnot hr).1 hdown⟩
  simp [PortRecord.goOnline]

/-- A fence end (R148). -/
theorem Work.fenceEnd_moved (w : Work) (p : Port) : w.PortMoved (w.fenceEnd p) p := by
  have hgo : ∀ st : PortState, (w.st.port p).state = .fencing →
      (w.st.port p).Quiet { w.st.port p with state := st } := fun st hf =>
    ⟨rfl, id, fun _ => ⟨by simp [hf], id⟩⟩
  rcases w.fenceEnd_cases p with h | ⟨hf, hflag, h⟩ | ⟨hf, hflag, hhello, h⟩ | ⟨host, hf, hflag, -, h⟩ <;> rw [h]
  · exact ⟨.refl _, fun _ => id, id, rfl, fun _ => id⟩
  · refine .setPort w (hgo .down hf) (fun hs => ?_) rfl
    obtain ⟨-, hhello, hready, -⟩ := hs.link p
    exact ⟨fun _ => hhello hflag, hhello, fun hr => ⟨(hready hr).1, fun _ => hflag, by simp⟩, fun _ => ⟨rfl, hflag⟩⟩
  · refine .setPort w (hgo .linked hf) (fun hs => ?_) rfl
    obtain ⟨-, -, hready, hnot⟩ := hs.link p
    refine ⟨fun _ => hhello, fun _ => hhello, fun hr => ⟨(hready hr).1, by simp, fun _ => hflag⟩, fun hr => ?_⟩
    exact absurd (hnot hr).1 (by simp [hf])
  · exact w.enterOnline_moved p host fun _ => ⟨hflag, by simp [hf]⟩

/-! ## The end of an event -/

/-- An event under way that began in a state: the laws are kept so far, and every fence that is to end is of a port
without a slot. -/
structure Work.Under (s : State) (w : Work) : Prop where
  st : s.Keeps w.st
  readTag : s.Sound → ReadTagLaw s → ReadTagLaw w.st
  engine : s.EngineKept w.st
  ending : ∀ p ∈ w.ending, s.Sound → ReadTagLaw s → w.st.NoSlots p

theorem Work.Under.start (s : State) : Work.Under s (.start s) :=
  ⟨.refl s, fun _ => id, id, fun p hp => by simp at hp⟩

theorem Work.Under.keeps {s : State} {w w' : Work} (h : w.Under s) (hk : w.Keeps w') : w'.Under s :=
  ⟨h.st.trans hk.st, fun hs => hk.readTag ∘ h.readTag hs, hk.engine ∘ h.engine,
    fun p hp hs ht => hk.noSlots p (h.ending p (hk.ending ▸ hp) hs ht)⟩

theorem Work.Under.calm {s : State} {w w' : Work} (h : w.Under s) (hc : w.Calm w') : w'.Under s := h.keeps hc.keeps

theorem Work.Under.talks {s : State} {w w' : Work} (h : w.Under s) (ht : w.Talks w') : w'.Under s := h.calm ht.calm

theorem Work.Under.moved {s : State} {w w' : Work} {p : Port} (h : w.Under s) (hm : w.PortMoved w' p)
    (hn : s.Sound → ReadTagLaw s → w.st.NoSlots p) : w'.Under s :=
  ⟨h.st.trans hm.st, fun hs ht => hm.readTag (hn hs ht) (h.readTag hs ht), hm.engine ∘ h.engine,
    fun q hq hs ht => hm.noSlots q (h.ending q (hm.ending ▸ hq) hs ht)⟩

theorem State.Fenced.noSlots {s t : State} {p q : Port} {r : PortRecord} (h : s.Fenced t p r) (hn : s.NoSlots q) :
    t.NoSlots q := by
  intro n y hy
  rw [h.slots, Option.map_eq_some_iff] at hy
  obtain ⟨x, hx, rfl⟩ := hy
  have := hn n x hx
  split <;> exact this

/-- A fence start at a ready part, with a HELLO pending only over a link. -/
theorem Work.Under.fenceStart {s : State} {w : Work} (h : w.Under s) (p : Port) (c : FenceCause)
    (hello : Option HostId) (hready : s.Sound → w.st.phase = .ready)
    (hhello : s.Sound → (w.st.port p).linkFlag = false → hello = none) : (w.fenceStart p c hello).Under s := by
  have hf := w.fenceStart_fenced p c hello
  have hfrom : s.Sound → (w.st.port p).FencedFrom ((w.st.port p).fence c hello) := fun hs =>
    PortRecord.fence_fencedFrom rfl (((h.st.sound hs).link p).2.2.1 (hready hs)).1 (hhello hs)
  refine ⟨h.st.trans_of_sound (fun hs => hf.keeps (fun _ => hfrom hs) fun _ => hready hs) hf.clock hf.pool,
    fun hs ht => hf.readTagLaw (hfrom hs) (h.readTag hs ht), w.fenceStart_engine p c hello ∘ h.engine,
    fun q hq hs ht => ?_⟩
  rcases w.fenceStart_ending p c hello q hq with hq | hq
  · exact hf.noSlots (h.ending q hq hs ht)
  · exact hq

theorem Work.Under.foldl_fenceStart {s : State} : ∀ (l : List Port) (w : Work), w.Under s →
    (l ≠ [] → s.Sound → w.st.phase = .ready) →
      (l.foldl (fun x p => x.fenceStart p .overflow none) w).Under s := by
  intro l
  induction l with
  | nil => intro w h _; exact h
  | cons p rest ih =>
    intro w h hready
    have hr := hready (List.cons_ne_nil p rest)
    exact ih _ (h.fenceStart p .overflow none hr fun _ _ => rfl) fun _ hs =>
      (w.fenceStart_fenced p .overflow none).phase.2 (hr hs)

/-- The fences of the ports that overflowed: only a ready part has a port ONLINE. -/
theorem Work.Under.fenceOverflowed {s : State} {w : Work} (h : w.Under s) : w.fenceOverflowed.Under s := by
  have hready : w.overflowed.filter (fun p => decide ((w.st.port p).state = .online)) ≠ [] → s.Sound →
      w.st.phase = .ready := by
    intro hdue hs
    obtain ⟨p, hp⟩ := List.exists_mem_of_ne_nil _ hdue
    refine (h.st.sound hs).ready_of_not_down (p := p) ?_
    simp [of_decide_eq_true (List.mem_filter.1 hp).2]
  have hcount : ∀ n, Work.Under s { w with overflowed := [], st := { w.st with choices := n } } := fun n =>
    h.calm ⟨.of_fields rfl rfl rfl rfl rfl rfl rfl id, .of_fields rfl rfl rfl, rfl⟩
  unfold Work.fenceOverflowed
  refine Work.Under.foldl_fenceStart _ _ (hcount _) fun hne => hready fun hnil => hne ?_
  rw [hnil]
  rfl

theorem Work.Under.scan {s : State} {w : Work} (h : w.Under s) : w.scan.Under s := h.keeps w.scan_keeps

theorem Work.Under.foldl_fenceEnd {s : State} : ∀ (l : List Port) (w : Work), w.Under s →
    (∀ p ∈ l, s.Sound → ReadTagLaw s → w.st.NoSlots p) → (l.foldl Work.fenceEnd w).Under s := by
  intro l
  induction l with
  | nil => intro w h _; exact h
  | cons p rest ih =>
    intro w h hn
    have hm := w.fenceEnd_moved p
    exact ih _ (h.moved hm (hn p (List.mem_cons_self ..))) fun q hq hs ht =>
      hm.noSlots q (hn q (List.mem_cons_of_mem _ hq) hs ht)

theorem Work.Under.endFences {s : State} {w : Work} (h : w.Under s) : w.endFences.Under s :=
  Work.Under.foldl_fenceEnd _ _ ⟨h.st, h.readTag, h.engine, by simp⟩ h.ending

/-- What an event of the part keeps of the laws. -/
structure State.Lawfully (s t : State) : Prop where
  st : s.Keeps t
  readTag : s.Sound → ReadTagLaw s → ReadTagLaw t
  engine : s.EngineKept t

theorem Work.Under.lawfully {s : State} {w : Work} (h : w.Under s) : s.Lawfully w.st := ⟨h.st, h.readTag, h.engine⟩

/-- An event that has kept the laws so far keeps them to its end (R65, R128, R141, R148). -/
theorem Work.Under.settle {s : State} {w : Work} (h : w.Under s) : s.Lawfully w.settle := by
  have key : ∀ (n : Nat) (w : Work), w.Under s → s.Lawfully (w.settleWithin n) := by
    intro n
    induction n with
    | zero => intro w h; exact h.lawfully
    | succ n ih =>
      intro w h
      unfold Work.settleWithin
      split
      · exact h.lawfully
      · have hscan : (if w.fenceOverflowed.scanDue then w.fenceOverflowed.scan else w.fenceOverflowed).Under s := by
          split
          · exact h.fenceOverflowed.scan
          · exact h.fenceOverflowed
        extract_lets w1 w2
        split
        · exact ih _ hscan.endFences
        · exact ih _ hscan
  exact key 8 w h

theorem Work.Under.done {s t : State} {w : Work} (h : w.Under s) (hd : w.done = .next t) : s.Lawfully t :=
  (Work.done_eq_next_iff w t).1 hd ▸ h.settle

theorem State.Calm.lawfully {s t : State} (h : s.Calm t) (he : s.EngineKept t) : s.Lawfully t :=
  ⟨h.keeps, fun _ => h.readTagLaw, he⟩

end Sys2Proof.Machine
end

section
/-! Start-up (R18, R159, R160): what the verdicts on a standing set say, and what the instantiation of the accepted
entries leaves in the lease table. -/

namespace Sys2Proof.Machine

open Sys2Proof.Safety

/-! ## Verdicts (R159) -/

@[simp] theorem length_verdicts (g : Nat) (l : List StandingEntry) :
    ∀ earlier : List Extent, (verdicts g earlier l).length = l.length := by
  induction l with
  | nil => intro _; rfl
  | cons e rest ih => intro earlier; simp [verdicts, ih]

/-- Each verdict is that of its entry against the extents accepted before it. -/
theorem verdicts_getElem (g : Nat) : ∀ (l : List StandingEntry) (earlier : List Extent) (k : Nat) (hk : k < l.length),
    ∃ before : List Extent,
      (verdicts g earlier l)[k]'(by simpa using hk) = l[k].verdict g before ∧
      ∀ x, x ∈ before ↔ x ∈ earlier ∨
        ∃ (m : Nat) (hm : m < k), (verdicts g earlier l)[m]'(by simp; omega) = .accepted ∧ x = (l[m]).extent := by
  intro l
  induction l with
  | nil => intro _ k hk; exact absurd hk (Nat.not_lt_zero k)
  | cons e rest ih =>
    intro earlier k hk
    cases k with
    | zero => exact ⟨earlier, rfl, by simp⟩
    | succ k =>
      obtain ⟨before, hv, hmem⟩ :=
        ih (if e.verdict g earlier = .accepted then earlier ++ [e.extent] else earlier) k (by simpa using hk)
      refine ⟨before, hv, fun x => (hmem x).trans ?_⟩
      constructor
      · rintro (hx | ⟨m, hm, ha, hx⟩)
        · split at hx
          · next ha =>
            rcases List.mem_append.1 hx with hx | hx
            · exact .inl hx
            · exact .inr ⟨0, by omega, ha, by simpa using hx⟩
          · exact .inl hx
        · exact .inr ⟨m + 1, by omega, ha, hx⟩
      · rintro (hx | ⟨m, hm, ha, hx⟩)
        · refine .inl ?_
          split
          · exact List.mem_append_left _ hx
          · exact hx
        · cases m with
          | zero =>
            refine .inl ?_
            rw [if_pos (show e.verdict g earlier = .accepted from ha)]
            exact List.mem_append_right _ (List.mem_singleton.2 hx)
          | succ m => exact .inr ⟨m, by omega, ha, hx⟩

/-- The verdict on an entry of the captured standing set. -/
def State.verdictOn (s : State) (n : EntryNumber) : EntryVerdict :=
  (verdicts s.geometry.poolGranules [] s.standingSet.toList)[n.val]'(by simp)

/-- The verdict on an entry is that of its tests, the last against the entries accepted before it (R159). -/
theorem State.verdictOn_eq (s : State) (n : EntryNumber) :
    ∃ before : List Extent,
      s.verdictOn n = s.standingSet[n].verdict s.geometry.poolGranules before ∧
      ∀ x, x ∈ before ↔ ∃ m : EntryNumber, m < n ∧ s.verdictOn m = .accepted ∧ x = s.standingSet[m].extent := by
  obtain ⟨before, hv, hmem⟩ := verdicts_getElem s.geometry.poolGranules s.standingSet.toList [] n.val (by simp)
  refine ⟨before, by simpa [State.verdictOn] using hv, fun x => (hmem x).trans ?_⟩
  constructor
  · rintro (hx | ⟨m, hm, ha, hx⟩)
    · cases hx
    · exact ⟨⟨m, by omega⟩, hm, ha, by simpa using hx⟩
  · rintro ⟨m, hm, ha, hx⟩
    exact .inr ⟨m.val, hm, ha, by simpa using hx⟩

theorem StandingEntry.all_none_iff (e : StandingEntry) :
    e.rights.toList.all (fun r => decide (r = .none)) = true ↔ ∀ p : Port, e.rights[p] = .none := by
  simp only [List.all_eq_true, decide_eq_true_eq]
  refine ⟨fun h p => h _ (List.getElem_mem (l := e.rights.toList) (by simp)), fun h r hr => ?_⟩
  obtain ⟨k, hk, rfl⟩ := List.getElem_of_mem hr
  simpa using h ⟨k, by simpa using hk⟩

theorem StandingEntry.mem_rights_iff (e : StandingEntry) (x : EntryRight) :
    x ∈ e.rights.toList ↔ ∃ p : Port, e.rights[p] = x := by
  refine ⟨fun h => ?_, fun ⟨p, hp⟩ => hp ▸ List.getElem_mem (l := e.rights.toList) (by simp)⟩
  obtain ⟨k, hk, rfl⟩ := List.getElem_of_mem h
  exact ⟨⟨k, by simpa using hk⟩, by simp⟩

/-- An accepted entry names a holder, and no holder of a SHARED one may write (R159). -/
theorem StandingEntry.accepted_rights {e : StandingEntry} {g : Nat} {before : List Extent}
    (h : e.verdict g before = .accepted) :
    (∃ p : Port, e.rights[p] ≠ .none) ∧ (e.kind = .shared → ∀ p : Port, e.rights[p] ≠ .readWrite) := by
  unfold StandingEntry.verdict at h
  split at h
  · cases h
  split at h
  · cases h
  split at h
  · cases h
  split at h
  · cases h
  next hholder =>
  split at h
  · cases h
  next hshared =>
  refine ⟨?_, fun hk p hp => hshared ⟨hk, (e.mem_rights_iff .readWrite).2 ⟨p, hp⟩⟩⟩
  rw [e.all_none_iff] at hholder
  push Not at hholder
  exact hholder

/-! ## Folds by place -/

/-- A property of the place and of what has been made so far is carried through a list of effects. -/
theorem foldl_by_place {α β : Type} {Q : Nat → α → Prop} (f : α → β → α) :
    ∀ (l : List β) (k : Nat) (a : α), Q k a →
      (∀ (j : Nat) (hj : j < l.length) (a : α), Q (k + j) a → Q (k + j + 1) (f a l[j])) →
        Q (k + l.length) (l.foldl f a) := by
  intro l
  induction l with
  | nil => intro k a h _; exact h
  | cons b rest ih =>
    intro k a h hstep
    have h1 := hstep 0 (by simp) a h
    have := ih (k + 1) (f a b) h1 fun j hj a ha => by
      have := hstep (j + 1) (by simpa using hj) a (by rwa [show k + (j + 1) = k + 1 + j by omega])
      rwa [show k + (j + 1) + 1 = k + 1 + j + 1 by omega] at this
    rwa [show k + 1 + rest.length = k + (b :: rest).length by simp; omega] at this

/-- What holds of the state before the first entry, and is carried from each entry to the next, holds after the
instantiation. -/
theorem State.instantiate_by_entry {Q : Nat → State → Prop} (s : State) (h0 : Q 0 s)
    (hstep : ∀ (n : EntryNumber) (u : State), Q n.val u → Q (n.val + 1) (u.settleEntry n (s.verdictOn n))) :
    Q 16 s.instantiate := by
  have hlen : ((List.finRange 16).zip (verdicts s.geometry.poolGranules [] s.standingSet.toList)).length = 16 := by
    simp
  have := foldl_by_place (Q := Q) (fun (t : State) x => t.settleEntry x.1 x.2)
    ((List.finRange 16).zip (verdicts s.geometry.poolGranules [] s.standingSet.toList)) 0 s h0 (fun j hj a ha => by
      have := hstep ⟨j, by simpa using hj⟩ a (by simpa using ha)
      simpa [State.verdictOn] using this)
  rwa [hlen, Nat.zero_add] at this

/-! ## What instantiation changes -/

/-- Only leases, alert causes and the outcomes of the report differ. -/
def State.OnlyStanding (s t : State) : Prop :=
  t = { s with
    leases := t.leases, alertCauses := t.alertCauses
    report := { s.report with outcomes := t.report.outcomes } }

theorem State.OnlyStanding.refl (s : State) : s.OnlyStanding s := rfl

theorem State.OnlyStanding.trans {a b c : State} (h : a.OnlyStanding b) (h' : b.OnlyStanding c) :
    a.OnlyStanding c := by
  unfold State.OnlyStanding at *
  rw [h', h]

theorem State.OnlyStanding.ports_eq {s t : State} (h : s.OnlyStanding t) : t.ports = s.ports := by rw [h]

theorem State.OnlyStanding.waitQueue_eq {s t : State} (h : s.OnlyStanding t) : t.waitQueue = s.waitQueue := by rw [h]

theorem State.OnlyStanding.hostSlots_eq {s t : State} (h : s.OnlyStanding t) : t.hostSlots = s.hostSlots := by rw [h]

theorem State.OnlyStanding.running_eq {s t : State} (h : s.OnlyStanding t) : t.running = s.running := by rw [h]

theorem State.OnlyStanding.clock_eq {s t : State} (h : s.OnlyStanding t) : t.clock = s.clock := by rw [h]

theorem State.OnlyStanding.pool_eq {s t : State} (h : s.OnlyStanding t) : t.pool = s.pool := by rw [h]

theorem State.OnlyStanding.scrubSlot_eq {s t : State} (h : s.OnlyStanding t) : t.scrubSlot = s.scrubSlot := by rw [h]

theorem State.OnlyStanding.standingSet_eq {s t : State} (h : s.OnlyStanding t) : t.standingSet = s.standingSet := by
  rw [h]

theorem State.settleEntry_only (s : State) (n : EntryNumber) (v : EntryVerdict) :
    s.OnlyStanding (s.settleEntry n v) := by
  cases v with
  | accepted =>
    simp only [State.settleEntry]
    split <;> rfl
  | _ => rfl

theorem State.instantiate_only (s : State) : s.OnlyStanding s.instantiate :=
  State.instantiate_by_entry (Q := fun _ => s.OnlyStanding) s rfl fun n u h => h.trans (u.settleEntry_only n _)

/-- An entry acted on changes the lowest FREE record, and that only when it is accepted (R160). -/
theorem State.lease_settleEntry (s : State) (n : EntryNumber) (v : EntryVerdict) (i : RecordIndex) :
    (s.settleEntry n v).lease i = s.lease i ∨
      (v = .accepted ∧ s.lowestFree = some i ∧
        (s.settleEntry n v).lease i = s.standingRecord i n s.standingSet[n]) := by
  cases v with
  | accepted =>
    cases hf : s.lowestFree with
    | none => exact .inl (by simp only [State.settleEntry, hf])
    | some j =>
      have hset : (s.settleEntry n .accepted).lease i =
          if j = i then s.standingRecord j n s.standingSet[n] else s.lease i := by
        simp only [State.settleEntry, hf]
        exact State.lease_setLease s j i _
      rw [hset]
      by_cases hij : j = i
      · subst hij
        exact .inr ⟨rfl, rfl, if_pos rfl⟩
      · exact .inl (if_neg hij)
  | _ => exact .inl rfl

/-- A record after instantiation is as before, or the standing lease of an accepted entry in a record that was FREE
(R18). -/
theorem State.lease_instantiate (s : State) (i : RecordIndex) :
    s.instantiate.lease i = s.lease i ∨
      ((s.lease i).state = .free ∧ ∃ n : EntryNumber, s.verdictOn n = .accepted ∧
        s.instantiate.lease i = s.standingRecord i n s.standingSet[n]) := by
  refine (State.instantiate_by_entry (s := s) (Q := fun _ u => s.OnlyStanding u ∧
    (u.lease i = s.lease i ∨ ((s.lease i).state = .free ∧ ∃ n : EntryNumber, s.verdictOn n = .accepted ∧
      u.lease i = s.standingRecord i n s.standingSet[n]))) ⟨.refl s, .inl rfl⟩ ?_).2
  · rintro n u ⟨honly, hu⟩
    refine ⟨honly.trans (u.settleEntry_only n _), ?_⟩
    rcases u.lease_settleEntry n (s.verdictOn n) i with h | ⟨hv, hfree, h⟩
    · rwa [h]
    · have hst := State.lowestFree_free hfree
      rcases hu with hu | ⟨-, m, -, hu⟩
      · refine .inr ⟨hu ▸ hst, n, hv, ?_⟩
        have hset : u.standingSet = s.standingSet := honly.standingSet_eq
        rw [h, State.standingRecord, hu, hset]
        rfl
      · rw [hu] at hst
        cases hst

/-! ## Standing leases and the laws -/

theorem StandingEntry.mem_holders {e : StandingEntry} {h : Holder} :
    h ∈ e.holders ↔ e.rights[h.port].holderRight = some h.right ∧ h.term = 0 ∧ h.deadline = none := by
  simp only [StandingEntry.holders, List.mem_filterMap, List.mem_finRange, true_and, Option.map_eq_some_iff]
  constructor
  · rintro ⟨p, r, hr, rfl⟩
    exact ⟨hr, rfl, rfl⟩
  · rintro ⟨hr, ht, hd⟩
    obtain ⟨p, r, t, d⟩ := h
    exact ⟨p, r, hr, by rw [← show t = 0 from ht, ← show d = none from hd]⟩

/-- The holders of a standing lease stand in port order, so on distinct ports (R18). -/
theorem StandingEntry.holders_ports_nodup (e : StandingEntry) : (e.holders.map (fun h => h.port)).Nodup := by
  have hsub : (e.holders.map (fun h => h.port)).Sublist (List.finRange 4) := by
    unfold StandingEntry.holders
    generalize List.finRange 4 = l
    induction l with
    | nil => exact .slnil
    | cons p rest ih =>
      rw [List.filterMap_cons]
      cases (e.rights.get p).holderRight with
      | none => exact ih.cons p
      | some r => exact ih.cons_cons p
  exact (List.nodup_finRange 4).sublist hsub

/-- A record of a FREE or a standing lease, lawful by itself: the port laws have nothing to say of it. -/
structure LeaseRecord.Fresh (r : LeaseRecord) : Prop where
  unheld : r.standing = none → r.holders = []
  resting : r.Resting
  lawful : r.Lawful

theorem LeaseRecord.Fresh.loosens {r : LeaseRecord} (h : r.Fresh) (r0 : LeaseRecord) : r0.Loosens r :=
  ⟨fun p hs hp => by simp [LeaseRecord.holds, h.unheld hs] at hp, fun _ => h.resting, fun _ => h.lawful⟩

theorem LeaseRecord.fresh_emptyRecord (g : BitVec 16) : (emptyRecord g).Fresh :=
  ⟨fun _ => rfl, fun _ => rfl, LeaseRecord.lawful_emptyRecord g⟩

/-- The standing lease of an accepted entry is lawful (R5, R6, R18). -/
theorem State.standingRecord_fresh (s : State) (i : RecordIndex) (n : EntryNumber) {e : StandingEntry} {g : Nat}
    {before : List Extent} (h : e.verdict g before = .accepted) : (s.standingRecord i n e).Fresh := by
  obtain ⟨⟨p, hp⟩, hshared⟩ := StandingEntry.accepted_rights h
  have hforce : (s.standingRecord i n e).inForce = true := by simp [State.standingRecord, LeaseRecord.inForce]
  have hnodup := e.holders_ports_nodup
  refine ⟨fun hs => by simp [State.standingRecord] at hs, fun hf => absurd (hforce.symm.trans hf) (by simp), ?_⟩
  refine ⟨fun hf => absurd (hforce.symm.trans hf) (by simp), fun _ => ⟨?_, ?_, hnodup⟩,
    fun _ hs => by simp [State.standingRecord] at hs, fun hk x hx => ?_, fun _ => rfl, fun hk => ?_, fun x hx => ?_⟩
  · cases hr : e.rights[p].holderRight with
    | none => cases hp' : e.rights[p] <;> simp_all [EntryRight.holderRight]
    | some r => exact List.length_pos_of_mem (StandingEntry.mem_holders (h := ⟨p, r, 0, none⟩).2 ⟨hr, rfl, rfl⟩)
  · have hle := length_le_four_of_nodup hnodup
    rwa [List.length_map] at hle
  · have hkind : e.kind = .shared := by
      cases hk' : e.kind <;> simp [State.standingRecord, hk', StandingKind.leaseKind] at hk ⊢
    have hr := (StandingEntry.mem_holders.1 hx).1
    have hno := hshared hkind x.port
    cases hp' : e.rights[x.port] <;> simp_all [EntryRight.holderRight]
  · cases hk' : e.kind <;> simp [State.standingRecord, hk', StandingKind.leaseKind] at hk
  · obtain ⟨-, ht, hd⟩ := StandingEntry.mem_holders.1 hx
    simp [ht, hd]

theorem State.instantiate_fresh_or (s : State) (i : RecordIndex) :
    s.instantiate.lease i = s.lease i ∨ (s.instantiate.lease i).Fresh := by
  rcases s.lease_instantiate i with h | ⟨-, n, hv, h⟩
  · exact .inl h
  · obtain ⟨before, hb, -⟩ := s.verdictOn_eq n
    exact .inr (h ▸ s.standingRecord_fresh i n (hb.symm.trans hv))

end Sys2Proof.Machine
end

section
/-! Every event keeps the laws: one lemma for each row of the opcode table, block by block. -/

namespace Sys2Proof.Machine

open Sys2Proof.Safety

theorem State.Lawfully.refl (s : State) : s.Lawfully s := ⟨.refl s, fun _ => id, id⟩

theorem State.Lawfully.trans {a b c : State} (h : a.Lawfully b) (h' : b.Lawfully c) : a.Lawfully c :=
  ⟨h.st.trans h'.st, fun hs => h'.readTag (h.st.sound hs) ∘ h.readTag hs, h'.engine ∘ h.engine⟩

/-- An effect on nothing that the laws speak of. -/
theorem State.Lawfully.of_fields {s t : State} (hl : t.leases = s.leases) (hp : t.ports = s.ports)
    (hw : t.waitQueue = s.waitQueue) (hn : t.hostSlots = s.hostSlots) (hr : t.running = s.running)
    (hph : t.phase = s.phase) (hc : t.clock = s.clock) (hpool : t.pool = s.pool) (hs : t.scrubSlot = s.scrubSlot)
    (hq : t.scrubQueue = s.scrubQueue) : s.Lawfully t :=
  (State.Calm.of_fields hl hp hw hn hr hph hc (by rw [hpool]; exact id)).lawfully (.of_fields hph hs hq)

theorem State.Lawfully.setAlert (s : State) (c : AlertCause) : s.Lawfully (s.setAlert c) :=
  .of_fields rfl rfl rfl rfl rfl rfl rfl rfl rfl rfl

theorem State.Talks.lawfully {s t : State} (h : s.Talks t) : s.Lawfully t :=
  h.calm.lawfully (.of_fields (by rw [h.eq]) (by rw [h.eq]) (by rw [h.eq]))

/-- A port's record changed quietly, its slots' part too, into one that the law of links allows. -/
theorem State.Lawfully.setPort {s : State} {p : Port} {r : PortRecord} (hq : (s.port p).Quiet r)
    (hn : (s.port p).SlotQuiet r) (hl : s.Sound → r.LinkLawful (s.phase = .ready)) : s.Lawfully (s.setPort p r) := by
  refine ⟨State.setPort_keeps hq hl, fun _ => readTagLaw_of_quiet (s := s) rfl fun q => ?_, .of_fields rfl rfl rfl⟩
  rw [State.port_setPort]; split
  · next hpq => subst hpq; exact hn
  · exact (PortRecord.Calm.refl _).slots

theorem State.Lawfully.setPort_alert {s : State} {p : Port} {r : PortRecord} {c : AlertCause} (hq : (s.port p).Quiet r)
    (hn : (s.port p).SlotQuiet r) (hl : s.Sound → r.LinkLawful (s.phase = .ready)) :
    s.Lawfully ((s.setPort p r).setAlert c) :=
  (State.Lawfully.setPort hq hn hl).trans (.setAlert _ c)

theorem State.Lawfully.setPort_calm {s : State} {p : Port} {r : PortRecord} (h : (s.port p).Calm r) :
    s.Lawfully (s.setPort p r) := (State.Talks.setPort h).lawfully

theorem next_inj {a b : State} (h : Host.Outcome.next (φ := Fault) (ρ := Refusal) a = .next b) : b = a :=
  (Host.Outcome.next.inj h).symm

/-- A calm change of the state of an event under way that leaves the scrub engine alone. -/
theorem Work.Under.onState {s : State} {w : Work} (h : w.Under s) {f : State → State} (hc : w.st.Calm (f w.st))
    (he : w.st.EngineKept (f w.st)) : (w.onState f).Under s := h.calm ⟨hc, he, rfl⟩

/-! ## Arrivals and link events (R40, R104, R131, R139, R142 to R144) -/

theorem queueAccess_lawfully {p : Port} {a : Access} {s t : State} (h : queueAccess p a s = .next t) :
    s.Lawfully t := by
  unfold queueAccess at h
  have hput : s.Talks (s.setPort p { s.port p with accessQueue := (s.port p).accessQueue ++ [a] }) :=
    .setPort (.of_fields rfl rfl rfl rfl rfl rfl rfl id fun _ => id)
  split at h
  · split at h
    · rw [next_inj h]; exact hput.lawfully
    · cases h
  · split at h
    · rw [next_inj h]; exact hput.lawfully
    · cases h
  · rw [next_inj h]; exact .refl s
  · cases h

theorem queueCommand_lawfully {p : Port} {c : CommandPacket} {s t : State} (h : queueCommand p c s = .next t) :
    s.Lawfully t := by
  unfold queueCommand at h
  split at h
  · next ho =>
    split at h
    · rw [next_inj h]
      exact .setPort_calm (.of_fields rfl rfl rfl rfl rfl rfl rfl id fun hn => absurd ho hn)
    · cases h
  · rw [next_inj h]; exact .refl s
  · rw [next_inj h]; exact .refl s
  · cases h

theorem takeAck_lawfully {p : Port} {q : BitVec 16} {s t : State} (h : takeAck p q s = .next t) : s.Lawfully t := by
  unfold takeAck at h
  split at h
  · next ho =>
    split at h
    · refine Work.Under.done ?_ h
      have hclear : (Work.start s).Talks ((Work.start s).onState (fun s =>
          s.setPort p { s.port p with unit := { (s.port p).unit with inFlight := none, ackTimer := none } })) :=
        .setPort _ (.setUnit ho id)
      exact (Work.Under.start s).talks (hclear.trans (Work.deliver_talks _ p (by simpa using ho)))
    · rw [next_inj h]; exact .refl s
  · rw [next_inj h]; exact .refl s
  · rw [next_inj h]; exact .refl s
  · cases h

/-- A DOWN or LINKED port has no host slot (R113). -/
theorem noSlots_of_idle {s : State} {p : Port} (hi : (s.port p).Idle) (h : ReadTagLaw s) : s.NoSlots p := by
  rintro n x hx rfl
  have hstate := (h.2.2 n x hx).2.1
  rcases hi with hi | hi <;> simp [hi] at hstate

theorem takeHello_lawfully {p : Port} {host : HostId} {s t : State} (hr : s.phase = .ready)
    (hu : (s.port p).lineUp = true) (h : takeHello p host s = .next t) : s.Lawfully t := by
  unfold takeHello at h
  have hflag : s.Sound → (s.port p).linkFlag = true := fun hs => ((hs.link p).2.2.1 hr).1.trans hu
  split at h
  · next hl =>
    refine Work.Under.done ((Work.Under.start s).moved (Work.enterOnline_moved _ p host fun hs => ?_) ?_) h
    · exact ⟨hflag hs, by simp [hl]⟩
    · exact fun _ ht => noSlots_of_idle (.inr hl) ht
  · refine Work.Under.done ((Work.Under.start s).fenceStart p .rehello (some host) (fun _ => hr) fun hs hf => ?_) h
    exact absurd ((hflag hs).symm.trans hf) (by simp)
  · next hf =>
    rw [next_inj h]
    refine .setPort ⟨rfl, id, fun hn => ⟨hn, id⟩⟩ ⟨.inl rfl, rfl, rfl⟩ fun hs => ?_
    obtain ⟨-, -, hready, hnot⟩ := hs.link p
    exact ⟨fun hn => absurd hf hn, fun hn => absurd ((hflag hs).symm.trans hn) (by simp), hready, hnot⟩
  · cases h

theorem execReadArrival_lawfully {p : Port} {k : RawPacket} {s t : State} (h : execReadArrival p k s = .next t) :
    s.Lawfully t := by
  obtain ⟨-, rfl | ⟨-, x, o, -, hx, ho⟩⟩ := arrival_next h
  · exact .refl _
  · split at hx
    · obtain rfl := Option.some.inj hx
      exact queueAccess_lawfully ho
    all_goals cases hx

theorem execWriteArrival_lawfully {p : Port} {k : RawPacket} {s t : State} (h : execWriteArrival p k s = .next t) :
    s.Lawfully t := by
  obtain ⟨-, rfl | ⟨-, x, o, -, hx, ho⟩⟩ := arrival_next h
  · exact .refl _
  · split at hx
    · obtain rfl := Option.some.inj hx
      exact queueAccess_lawfully ho
    all_goals cases hx

theorem execCommandArrival_lawfully {p : Port} {k : RawPacket} {s t : State}
    (h : execCommandArrival p k s = .next t) : s.Lawfully t := by
  obtain ⟨-, rfl | ⟨-, x, o, -, hx, ho⟩⟩ := arrival_next h
  · exact .refl _
  · split at hx
    · obtain rfl := Option.some.inj hx
      exact queueCommand_lawfully ho
    all_goals cases hx

theorem execNoticeAck_lawfully {p : Port} {k : RawPacket} {s t : State} (h : execNoticeAck p k s = .next t) :
    s.Lawfully t := by
  obtain ⟨-, rfl | ⟨-, x, o, -, hx, ho⟩⟩ := arrival_next h
  · exact .refl _
  · split at hx
    · obtain rfl := Option.some.inj hx
      exact takeAck_lawfully ho
    all_goals cases hx

theorem execHello_lawfully {p : Port} {k : RawPacket} {s t : State} (h : execHello p k s = .next t) :
    s.Lawfully t := by
  obtain ⟨hu, rfl | ⟨hr, x, o, -, hx, ho⟩⟩ := arrival_next h
  · exact .refl _
  · split at hx
    · obtain rfl := Option.some.inj hx
      exact takeHello_lawfully hr hu ho
    all_goals cases hx

theorem execLinkUp_lawfully {p : Port} {s t : State} (h : execLinkUp p s = .next t) : s.Lawfully t := by
  unfold execLinkUp at h
  split at h
  · cases h
  extract_lets r at h
  split at h
  · next hr =>
    rw [next_inj h]
    refine .setPort ⟨rfl, id, fun hn => ⟨hn, id⟩⟩ ⟨.inl rfl, rfl, rfl⟩ fun hs => ?_
    obtain ⟨hh, hf, -, hnot⟩ := hs.link p
    exact ⟨hh, hf, fun hready => absurd hready hr, hnot⟩
  next hr =>
  replace hr := not_not.1 hr
  split at h
  · next hd =>
    rw [next_inj h]
    refine .setPort_alert ⟨rfl, id, fun _ => ⟨fun hn => ?_, id⟩⟩ ⟨.inr ⟨.inl hd, .inr rfl⟩, rfl, rfl⟩ fun hs => ?_
    · exact absurd (hd.symm.trans hn) (by simp)
    · have hhello := (hs.link p).1 (by rw [show (s.port p).state = .down from hd]; simp)
      exact ⟨fun _ => hhello, fun _ => hhello, fun _ => ⟨rfl, by simp, fun _ => rfl⟩, fun hn => absurd hr hn⟩
  · next hf =>
    rw [next_inj h]
    refine .setPort_alert ⟨rfl, id, fun hn => ⟨hn, id⟩⟩ ⟨.inl rfl, rfl, rfl⟩ fun hs => ?_
    exact ⟨fun hn => absurd hf hn, by simp,
      fun _ => ⟨rfl, fun hd => absurd (hf.symm.trans hd) (by simp), fun _ => rfl⟩, fun hn => absurd hr hn⟩
  · cases h
  · cases h

/-- A fence start of a port whose record had just been changed is one of the port as it was. -/
theorem State.Fenced.of_setPort {s t : State} {p : Port} {r r' : PortRecord} {c : AlertCause}
    (h : ((s.setPort p r').setAlert c).Fenced t p r) : s.Fenced t p r := by
  obtain ⟨hleases, hgone, hports, hqueue, hslots, hrun, hphase, hclock, hpool⟩ := h
  refine ⟨hleases, hgone, fun q => ?_, hqueue, hslots, hrun, hphase, hclock, hpool⟩
  rw [hports]
  split
  · rfl
  · next hpq => exact (State.port_setPort s p q r').trans (if_neg hpq)

/-- The fence of a port that has lost its link (R145). -/
theorem linkLost_lawfully {p : Port} {s t : State} {r : PortRecord} (hr : s.phase = .ready)
    (he : r.epoch = (s.port p).epoch) (hf : r.linkFlag = r.lineUp)
    (h : ((Work.start ((s.setPort p r).setAlert (.portLink p))).fenceStart p .linkLost none).done = .next t) :
    s.Lawfully t := by
  refine Work.Under.done ?_ h
  have hfence := Work.fenceStart_fenced (Work.start ((s.setPort p r).setAlert (.portLink p))) p .linkLost none
  have hport : ((s.setPort p r).setAlert (.portLink p)).port p = r := (State.port_setPort s p p r).trans (if_pos rfl)
  rw [Work.start_st, hport] at hfence
  have hfrom : (s.port p).FencedFrom (r.fence .linkLost none) :=
    PortRecord.fence_fencedFrom he hf fun _ => rfl
  have hfenced : s.Fenced _ p _ := hfence.of_setPort
  refine ⟨hfenced.keeps (fun _ => hfrom) fun _ => hr, fun _ => hfenced.readTagLaw hfrom,
    fun hl => Work.fenceStart_engine (.start ((s.setPort p r).setAlert (.portLink p))) p .linkLost none hl,
    fun q hq _ _ => ?_⟩
  rcases Work.fenceStart_ending _ p .linkLost none q hq with hq | hq
  · simp at hq
  · exact hq

theorem execLinkLoss_lawfully {p : Port} {s t : State} (h : execLinkLoss p s = .next t) : s.Lawfully t := by
  unfold execLinkLoss at h
  split at h
  · cases h
  extract_lets _ r at h
  split at h
  · next hr =>
    rw [next_inj h]
    refine .setPort ⟨rfl, id, fun hn => ⟨hn, id⟩⟩ ⟨.inl rfl, rfl, rfl⟩ fun hs => ?_
    obtain ⟨hh, hf, -, hnot⟩ := hs.link p
    exact ⟨hh, hf, fun hready => absurd hready hr, hnot⟩
  next hr =>
  replace hr := not_not.1 hr
  split at h
  · next hd =>
    rw [next_inj h]
    refine .setPort_alert ⟨rfl, id, fun _ => ⟨fun hn => ?_, id⟩⟩ ⟨.inr ⟨.inr hd, .inl rfl⟩, rfl, rfl⟩ fun hs => ?_
    · exact absurd (hd.symm.trans hn) (by simp)
    · have hhello := (hs.link p).1 (by rw [show (s.port p).state = .linked from hd]; simp)
      exact ⟨fun _ => hhello, fun _ => hhello, fun _ => ⟨rfl, fun _ => rfl, by simp⟩, fun hn => absurd hr hn⟩
  · exact linkLost_lawfully (r := { r with linkFlag := false }) hr rfl rfl h
  · next hf =>
    rw [next_inj h]
    refine .setPort_alert ⟨rfl, id, fun hn => ⟨hn, id⟩⟩ ⟨.inl rfl, rfl, rfl⟩ fun hs => ?_
    refine ⟨fun _ => rfl, fun _ => rfl, fun _ => ⟨rfl, fun _ => rfl, fun hd => ?_⟩, fun hn => absurd hr hn⟩
    rcases hd with hd | hd <;> exact absurd (hf.symm.trans hd) (by simp)
  · cases h

theorem execPacketSent_lawfully {p : Port} {s t : State} (h : execPacketSent p s = .next t) : s.Lawfully t := by
  unfold execPacketSent at h
  split at h
  · cases h
  · rw [next_inj h]
    exact .setPort_calm (.of_fields rfl rfl rfl rfl rfl rfl rfl id fun _ => id)

/-! ## Commands (Chapter 3) -/

theorem State.commandTaken_calm (s : State) (p : Port) : s.Calm (s.commandTaken p) :=
  (State.Talks.setPort (s := s) (p := p) (r := { s.port p with commandQueue := (s.port p).commandQueue.tail })
    (.of_fields rfl rfl rfl rfl rfl rfl rfl id fun _ ⟨hq, hrest⟩ => ⟨by simp [hq], hrest⟩)).calm.trans
    (.of_fields rfl rfl rfl rfl rfl rfl rfl id)

/-- A taking of a command keeps the laws when its row's action does, on a port that is ONLINE and with a tag that is
free. -/
theorem takeCommand_lawfully {act : Port → CommandTag → LeaseCommand → Option (Work → Work)} {s t : State}
    (h : takeCommand act s = .next t)
    (hact : ∀ p tag x f w, act p tag x = some f → w.Under s → (s.Sound → (w.st.port p).state = .online) →
      w.st.tagOutstanding p tag = false → (f w).Under s) : s.Lawfully t := by
  obtain ⟨p, c, f, hnext, hf, rfl⟩ := takeCommand_next h
  have hU : (Work.start (s.commandTaken p)).Under s :=
    (Work.Under.start s).calm (w' := .start (s.commandTaken p))
      ⟨s.commandTaken_calm p, .of_fields rfl rfl rfl, rfl⟩
  have honline : s.Sound → ((Work.start (s.commandTaken p)).st.port p).state = .online := fun hs => by
    have hne : (s.port p).commandQueue ≠ [] := fun hnil => by
      have := State.nextCommand_head hnext
      rw [hnil] at this
      cases this
    simpa using hs.command_online hne
  refine Work.Under.settle ?_
  unfold withFreeTag
  split
  · exact hU.talks (Work.respond_talks _ _ _ _)
  · next htag => exact hact p c.tag c.command f _ hf hU honline (by simpa using htag)

theorem Work.Under.respond {s : State} {w : Work} (h : w.Under s) (p : Port) (tag : CommandTag) (a : Answer) :
    (w.respond p tag a).Under s := h.talks (w.respond_talks p tag a)

theorem Work.Under.give {s : State} {w : Work} (h : w.Under s) {p : Port} {i : RecordIndex} {r : LeaseRecord} {n : Nat}
    (ho : s.Sound → (w.st.port p).state = .online) (hg : (w.st.lease i).Gives r p)
    (hq : w.st.quotaAllows p n = true) : (w.onState (fun s => s.setLease i r)).Under s :=
  ⟨h.st.trans_of_sound (fun hs => State.give_keeps (fun _ => ho hs) hg hq) id id, h.readTag, h.engine, h.ending⟩

theorem notGrantable_under {s : State} {w : Work} (h : w.Under s) {p : Port} {tag : CommandTag} {k : AcquireKind}
    {e : Extent} {term maxWait : Nat} (ho : s.Sound → (w.st.port p).state = .online)
    (ht : w.st.tagOutstanding p tag = false) : (notGrantable p tag k e term maxWait w).Under s := by
  unfold notGrantable
  split
  · split <;> exact h.respond _ _ _
  · split
    · exact h.respond _ _ _
    · next hfull =>
      exact ⟨h.st.trans_of_sound
          (fun hs => State.enterWaitQueue_keeps (fun _ => ho hs) ht (by simpa using hfull)) id id,
        fun hs htags => readTagLaw_of_quiet (s := w.st) rfl (fun q => w.st.port_slotQuiet_holdTag p q tag)
          (h.readTag hs htags), h.engine, h.ending⟩

theorem acquire_under {s : State} {w : Work} (h : w.Under s) {p : Port} {tag : CommandTag} {kind : Byte}
    {e : Extent} {term maxWait : Nat} (ho : s.Sound → (w.st.port p).state = .online)
    (ht : w.st.tagOutstanding p tag = false) : (acquire p tag kind e term maxWait w).Under s := by
  unfold acquire
  split
  · exact h.respond _ _ _
  split
  · exact h.respond _ _ _
  split
  · exact h.respond _ _ _
  split
  · exact h.respond _ _ _
  split
  · exact h.respond _ _ _
  next hquota =>
  split
  · exact notGrantable_under h ho ht
  split
  · exact notGrantable_under h ho ht
  · next i _ =>
    exact (h.give ho (State.grantedRecord_gives _ i p _ e term) (by simpa using hquota)).respond p tag _

/-- A handle that resolves to a record out of DRAINING names a lease in force. -/
theorem State.inForce_of_resolves {s : State} {h : Handle} (hres : ¬ s.resolves h = false)
    (hdrain : ¬ (s.lease h.index).state = .draining) : (s.lease h.index).inForce = true := by
  have hlive : (s.lease h.index).state ≠ .free := fun hf => hres (by simp [State.resolves, LeaseRecord.live, hf])
  unfold LeaseRecord.inForce
  cases hst : (s.lease h.index).state with
  | free => exact absurd hst hlive
  | draining => exact absurd hst hdrain
  | active | notice => simp

theorem join_under {s : State} {w : Work} (h : w.Under s) {p : Port} {tag : CommandTag} {hd : Handle} {term : Nat}
    (ho : s.Sound → (w.st.port p).state = .online) : (join p tag hd term w).Under s := by
  unfold join
  extract_lets r
  split
  · exact h.respond _ _ _
  next hres =>
  split
  · exact h.respond _ _ _
  next hdrain =>
  split
  · exact h.respond _ _ _
  split
  · exact h.respond _ _ _
  next hkind =>
  split
  · exact h.respond _ _ _
  next hnotice =>
  split
  · exact h.respond _ _ _
  next hholds =>
  split
  · exact h.respond _ _ _
  split
  · exact h.respond _ _ _
  split
  · exact h.respond _ _ _
  next hquota =>
  have hforce : r.inForce = true := State.inForce_of_resolves hres hdrain
  exact (h.give ho (State.joinedRecord_gives w.st hd.index p term hforce (not_not.1 hkind) (by simpa using hholds))
    (by simpa using hquota)).respond p tag _

theorem renew_under {s : State} {w : Work} (h : w.Under s) {p : Port} {tag : CommandTag} {hd : Handle} {term : Nat} :
    (renew p tag hd term w).Under s := by
  unfold renew
  extract_lets r
  split
  · exact h.respond _ _ _
  split
  · exact h.respond _ _ _
  split
  · exact h.respond _ _ _
  split
  · exact h.respond _ _ _
  split
  · exact h.respond _ _ _
  split
  · exact h.respond _ _ _
  exact (h.calm (.setLease w (State.renewedRecord_loosens w.st hd.index p term))).respond _ _ _

theorem release_under {s : State} {w : Work} (h : w.Under s) {p : Port} {tag : CommandTag} {hd : Handle} :
    (release p tag hd w).Under s := by
  unfold release
  extract_lets r
  split
  · exact h.respond _ _ _
  split
  · exact h.respond _ _ _
  split
  · exact h.respond _ _ _
  split
  · exact h.respond _ _ _
  exact (h.calm (w.removeHolder_calm hd.index p .released)).respond _ _ _

theorem convert_under {s : State} {w : Work} (h : w.Under s) {p : Port} {tag : CommandTag} {hd : Handle} :
    (convert p tag hd w).Under s := by
  unfold convert
  extract_lets r
  split
  · exact h.respond _ _ _
  split
  · exact h.respond _ _ _
  split
  · exact h.respond _ _ _
  split
  · exact h.respond _ _ _
  split
  · exact h.respond _ _ _
  exact (h.calm (.setLease w (.converted _))).respond _ _ _

/-- An entry of the queue leaves it with its tag. -/
theorem Work.leaveWaitQueue_keeps (w : Work) {e : WaitEntry} (he : e ∈ w.st.waitQueue) :
    w.Keeps (w.onState (fun s => s.leaveWaitQueue e)) := by
  obtain ⟨a, b, -, hab, herase⟩ := List.exists_erase_eq he
  have hst : w.st.Keeps (w.st.leaveWaitQueue e) := by
    have h := State.dequeue_keeps hab
    rwa [← herase] at h
  exact ⟨hst, readTagLaw_of_quiet (s := w.st) rfl fun q => w.st.port_slotQuiet_freeTag e.port q e.tag,
    .of_fields rfl rfl rfl, rfl, fun _ h => h⟩

theorem cancel_under {s : State} {w : Work} (h : w.Under s) {p : Port} {tag : CommandTag} {target : Byte} :
    (cancel p tag target w).Under s := by
  unfold cancel
  split
  · exact h.respond _ _ _
  · next e he =>
    exact (((h.keeps (w.leaveWaitQueue_keeps (List.mem_of_find?_eq_some he))).respond _ _ _).respond _ _ _).calm
      (.needScan _)

theorem execAcquire_lawfully {s t : State} (h : execAcquire s = .next t) : s.Lawfully t :=
  takeCommand_lawfully h fun p tag x f w hx hU ho ht => by
    split at hx
    · obtain rfl := Option.some.inj hx; exact acquire_under hU ho ht
    all_goals cases hx

theorem execJoin_lawfully {s t : State} (h : execJoin s = .next t) : s.Lawfully t :=
  takeCommand_lawfully h fun p tag x f w hx hU ho _ => by
    split at hx
    · obtain rfl := Option.some.inj hx; exact join_under hU ho
    all_goals cases hx

theorem execRenew_lawfully {s t : State} (h : execRenew s = .next t) : s.Lawfully t :=
  takeCommand_lawfully h fun p tag x f w hx hU _ _ => by
    split at hx
    · obtain rfl := Option.some.inj hx; exact renew_under hU
    all_goals cases hx

theorem execRelease_lawfully {s t : State} (h : execRelease s = .next t) : s.Lawfully t :=
  takeCommand_lawfully h fun p tag x f w hx hU _ _ => by
    split at hx
    · obtain rfl := Option.some.inj hx; exact release_under hU
    all_goals cases hx

theorem execConvert_lawfully {s t : State} (h : execConvert s = .next t) : s.Lawfully t :=
  takeCommand_lawfully h fun p tag x f w hx hU _ _ => by
    split at hx
    · obtain rfl := Option.some.inj hx; exact convert_under hU
    all_goals cases hx

theorem execCancel_lawfully {s t : State} (h : execCancel s = .next t) : s.Lawfully t :=
  takeCommand_lawfully h fun p tag x f w hx hU _ _ => by
    split at hx
    · obtain rfl := Option.some.inj hx; exact cancel_under hU
    all_goals cases hx

theorem execLookup_lawfully {s t : State} (h : execLookup s = .next t) : s.Lawfully t :=
  takeCommand_lawfully h fun p tag x f w hx hU _ _ => by
    split at hx
    · obtain rfl := Option.some.inj hx; exact hU.respond _ _ _
    all_goals cases hx

theorem execMalformedCommand_lawfully {s t : State} (h : execMalformedCommand s = .next t) : s.Lawfully t :=
  takeCommand_lawfully h fun p tag x f w hx hU _ _ => by
    split at hx
    · obtain rfl := Option.some.inj hx; exact hU.respond _ _ _
    all_goals cases hx

/-! ## Deadlines -/

theorem execWaitDeadlineExpiry_lawfully {p : Port} {tag : CommandTag} {s t : State}
    (h : execWaitDeadlineExpiry p tag s = .next t) : s.Lawfully t := by
  unfold execWaitDeadlineExpiry at h
  split at h
  · cases h
  next e he =>
  split at h
  · refine Work.Under.done ?_ h
    exact (((Work.Under.start s).keeps
      (Work.leaveWaitQueue_keeps (.start s) (List.mem_of_find?_eq_some he))).respond _ _ _).calm (.needScan _)
  · cases h

theorem execHolderExpiry_lawfully {i : RecordIndex} {p : Port} {s t : State} (h : execHolderExpiry i p s = .next t) :
    s.Lawfully t := by
  unfold execHolderExpiry at h
  split at h
  · cases h
  split at h
  · cases h
  split at h
  · exact Work.Under.done (((Work.Under.start s).calm (Work.removeHolder_calm _ i p .expired)).talks
      (Work.raise_talks _ _ _ _)) h
  · cases h

theorem execNoticeDeadline_lawfully {i : RecordIndex} {s t : State} (h : execNoticeDeadline i s = .next t) :
    s.Lawfully t := by
  unfold execNoticeDeadline at h
  split at h
  · cases h
  split at h
  · cases h
  split at h
  · exact Work.Under.done ((Work.Under.start s).calm (Work.revokeAll_calm _ i)) h
  · cases h

theorem execAckTimerExpiry_lawfully {p : Port} {s t : State} (h : execAckTimerExpiry p s = .next t) :
    s.Lawfully t := by
  unfold execAckTimerExpiry at h
  split at h
  next d f htimer _ =>
    have hnot : ¬ (s.port p).Offline := fun ho => by
      rw [ho.2.2.2.2.2] at htimer
      cases htimer
    split at h
    · split at h
      · refine Work.Under.done ((Work.Under.start s).talks (Work.Talks.trans (.setPort _ ?_) (Work.send_talks _ _ _))) h
        exact .of_fields rfl rfl rfl rfl rfl rfl rfl id fun _ ho => absurd ho hnot
      · refine Work.Under.done ((Work.Under.start s).fenceStart p .unresponsive none (fun hs => ?_) fun _ _ => rfl) h
        have honline : (s.port p).state = .online := by
          by_contra hn
          exact hnot (((portLaw_iff s).1 hs.port).2.2.2.2 p hn).2.2
        exact hs.ready_of_not_down (p := p) (by simp [honline])
    · cases h
  · cases h

theorem execLeaseClockTick_lawfully {s t : State} (h : execLeaseClockTick s = .next t) : s.Lawfully t := by
  unfold execLeaseClockTick at h
  split at h
  · next hr =>
    rw [next_inj h]
    refine State.Calm.lawfully ⟨fun _ => .refl _, fun _ => .refl _, rfl, rfl, id, .rfl, fun _ hn => absurd hr hn, id⟩
      (.of_fields rfl rfl rfl)
  · rw [next_inj h]; exact .refl s

end Sys2Proof.Machine
end

section
/-! Every event keeps the laws, continued: the access path, the scrub engine, the service unit, the resets and the
start-up; then the step. -/

namespace Sys2Proof.Machine

open Sys2Proof.Safety

/-! ## Host slots and read tags (R111 to R117) -/

/-- A host slot filled with an access of an ONLINE port: the port's read tags gain the tag of a READ, which was free
(R112, R113). -/
theorem readTagLaw_fill {s t : State} {n : HostSlotNumber} {x : HostSlot}
    (hslot : ∀ m, t.slot m = if n = m then some x else s.slot m)
    (hports : ∀ q, (t.port q).state = (s.port q).state ∧ (t.port q).epoch = (s.port q).epoch)
    (honline : (s.port x.port).state = .online) (hepoch : x.epoch = (s.port x.port).epoch) (ho : x.orphaned = false)
    (htag : ∀ tag, x.kind = .read tag → (s.port x.port).readTags.getLsbD tag.val = false)
    (hempty : s.slot n = none)
    (hbits : ∀ (q : Port) (tag : ReadTag), (t.port q).readTags.getLsbD tag.val = true ↔
      (s.port q).readTags.getLsbD tag.val = true ∨ (q = x.port ∧ x.kind = .read tag))
    (h : ReadTagLaw s) : ReadTagLaw t := by
  obtain ⟨huniq, htags, hslots⟩ := h
  have hnew : ∀ m y tag, s.slot m = some y → y.port = x.port → x.kind = .read tag → y.kind ≠ .read tag := by
    intro m y tag hm hp hk hk'
    have horph : y.orphaned = false := by
      have hstate := (hslots m y hm).2.2
      rw [hp, honline] at hstate
      cases hy : y.orphaned with
      | false => rfl
      | true => exact absurd (hstate.1 hy) (by simp)
    have := (htags x.port tag).2 ⟨m, y, hm, hp, hk', horph⟩
    rw [htag tag hk] at this
    cases this
  refine ⟨fun m k y z tag hmk hm hk hp he hkind => ?_, fun q tag => ?_, fun m y hm => ?_⟩
  · rw [hslot] at hm hk
    split at hm
    · next hnm =>
      rw [if_neg (fun hnk => hmk (hnm.symm.trans hnk))] at hk
      obtain rfl := Option.some.inj hm
      exact hnew k z tag hk hp.symm hkind
    · split at hk
      · obtain rfl := Option.some.inj hk
        exact fun hkind' => hnew m y tag hm hp hkind' hkind
      · exact huniq m k y z tag hmk hm hk hp he hkind
  · rw [hbits, htags]
    constructor
    · rintro (⟨m, y, hm, hrest⟩ | ⟨rfl, hk⟩)
      · have hnm : n ≠ m := by rintro rfl; rw [hempty] at hm; cases hm
        exact ⟨m, y, by rw [hslot, if_neg hnm]; exact hm, hrest⟩
      · exact ⟨n, x, by rw [hslot, if_pos rfl], rfl, hk, ho⟩
    · rintro ⟨m, y, hm, hp, hk, horph⟩
      rw [hslot] at hm
      split at hm
      · obtain rfl := Option.some.inj hm
        exact .inr ⟨hp.symm, hk⟩
      · exact .inl ⟨m, y, hm, hp, hk, horph⟩
  · rw [hslot] at hm
    rw [(hports y.port).1, (hports y.port).2]
    split at hm
    · obtain rfl := Option.some.inj hm
      exact ⟨hepoch, .inl honline, by simp [ho, honline]⟩
    · exact hslots m y hm

/-- A host slot freed: the tag of a READ that is not orphaned leaves the port's read tags (R112, R117). -/
theorem readTagLaw_empty {s t : State} {n : HostSlotNumber} {x : HostSlot} (hx : s.slot n = some x)
    (hslot : ∀ m, t.slot m = if n = m then none else s.slot m)
    (hports : ∀ q, (t.port q).state = (s.port q).state ∧ (t.port q).epoch = (s.port q).epoch)
    (hbits : ∀ (q : Port) (tag : ReadTag), (t.port q).readTags.getLsbD tag.val = true ↔
      (s.port q).readTags.getLsbD tag.val = true ∧ ¬ (q = x.port ∧ x.kind = .read tag ∧ x.orphaned = false))
    (h : ReadTagLaw s) : ReadTagLaw t := by
  obtain ⟨huniq, htags, hslots⟩ := h
  have hold : ∀ {m y}, t.slot m = some y → n ≠ m ∧ s.slot m = some y := by
    intro m y hm
    rw [hslot] at hm
    split at hm
    · cases hm
    · next hnm => exact ⟨hnm, hm⟩
  refine ⟨fun m k y z tag hmk hm hk => huniq m k y z tag hmk (hold hm).2 (hold hk).2, fun q tag => ?_,
    fun m y hm => ?_⟩
  · rw [hbits, htags]
    constructor
    · rintro ⟨⟨m, y, hm, hp, hk, ho⟩, hnot⟩
      have hnm : n ≠ m := by
        rintro rfl
        obtain rfl := Option.some.inj (hx.symm.trans hm)
        exact hnot ⟨hp.symm, hk, ho⟩
      exact ⟨m, y, by rw [hslot, if_neg hnm]; exact hm, hp, hk, ho⟩
    · rintro ⟨m, y, hm, hp, hk, ho⟩
      obtain ⟨hnm, hm⟩ := hold hm
      refine ⟨⟨m, y, hm, hp, hk, ho⟩, ?_⟩
      rintro ⟨hq, hxk, -⟩
      have hport : y.port = x.port := hp.trans hq
      have hepoch : y.epoch = x.epoch := by rw [(hslots m y hm).1, (hslots n x hx).1, hport]
      exact huniq m n y x tag (Ne.symm hnm) hm hx hport hepoch hk hxk
  · rw [(hports y.port).1, (hports y.port).2]
    exact hslots m y (hold hm).2

/-! ## Takings (R108) -/

theorem State.accessTaken_calm (s : State) (p : Port) : s.Calm (s.accessTaken p) :=
  (State.Talks.setPort (s := s) (p := p) (r := { s.port p with accessQueue := (s.port p).accessQueue.tail })
    (.of_fields rfl rfl rfl rfl rfl rfl rfl id fun _ => id)).calm.trans (.of_fields rfl rfl rfl rfl rfl rfl rfl id)

/-- An access refused is noted and answered. -/
theorem Work.noteRefusal_talks (w : Work) (p : Port) (k : AccessKind) (a : PoolAddress) (reason : RefusalReason) :
    w.Talks (w.onState (fun s => s.noteRefusal p k a reason)) :=
  .setPort w (.of_fields rfl rfl rfl rfl rfl rfl rfl id fun _ => id)

/-- An access that passes its checks is of an ONLINE port, with a read tag that is free (R108). -/
theorem State.checkAccess_admitted {s : State} {p : Port} {tag : Option ReadTag} {k : AccessKind} {a : PoolAddress}
    {length : Nat} {i : RecordIndex} (h : s.checkAccess p tag k a length = .admitted i) :
    (s.port p).state = .online ∧ ∀ t, tag = some t → (s.port p).readTags.getLsbD t.val = false := by
  unfold State.checkAccess at h
  split at h
  · cases h
  next ho =>
  split at h
  · cases h
  split at h
  · cases h
  next htag =>
  refine ⟨not_not.1 ho, ?_⟩
  rintro t rfl
  simpa using htag

/-- An access admitted: the lease counts it, and the port's record changes at most in its read tags. -/
theorem State.admission_keeps {s t : State} {i : RecordIndex} {p : Port}
    (ho : (s.port p).state = .online)
    (hl : ∀ j, t.lease j = if i = j then { s.lease i with drainCount := (s.lease i).drainCount + 1 } else s.lease j)
    (hp : ∀ q, t.port q = if p = q then { s.port p with readTags := (t.port p).readTags } else s.port q)
    (hw : t.waitQueue = s.waitQueue) (hr : t.running = s.running) (hph : t.phase = s.phase) (hc : t.clock = s.clock)
    (hpool : t.pool = s.pool) : s.Keeps t := by
  have hloose : ∀ j, (s.lease j).Loosens (t.lease j) := fun j => by
    rw [hl]; split
    · next hij => subst hij; exact .of_fields rfl rfl rfl rfl
    · exact .refl _
  refine ⟨fun hs => ⟨linkLaw_of_same (by rw [hph]) (fun q => ?_) hs.link,
      portLaw_of_quiet hloose hw (fun q => ?_) hs.port⟩,
    fun _ => holderLaw_of_loosens hloose, fun _ => holdingsLaw_of_loosens hloose (by rw [hr]; exact id),
    by unfold ClockLaw; rw [hph, hc]; exact id, by rw [hpool]; exact id⟩
  · rw [hp]; split
    · next hpq => subst hpq; exact ⟨rfl, rfl, rfl, rfl⟩
    · exact (PortRecord.Calm.refl _).link
  · rw [hp]; split
    · next hpq => subst hpq; exact ⟨rfl, id, fun hn => absurd ho hn⟩
    · exact (PortRecord.Calm.refl _).quiet

theorem takeRead_under {s : State} {w : Work} {n : HostSlotNumber} {p : Port} {tag : ReadTag} {a : PoolAddress}
    {length : Nat} (h : w.Under s) (hn : w.st.slot n = none) (he : w.ending = []) :
    (takeRead n p tag a length w).Under s := by
  unfold takeRead
  split
  · next i hadm =>
    obtain ⟨ho, htag⟩ := State.checkAccess_admitted hadm
    refine ⟨h.st.trans (State.admission_keeps (p := p) (i := i) ho (fun j => ?_) (fun q => ?_) rfl rfl rfl rfl rfl),
      fun hs ht => ?_, h.engine, by simp [he]⟩
    · simp
    · by_cases hpq : p = q
      · subst hpq; simp
      · simp [hpq]
    · refine readTagLaw_fill (x := w.st.admittedSlot p (.read tag) a length i) (n := n) (s := w.st) (fun m => ?_)
        (fun q => ?_) ho rfl rfl (fun t hk => ?_) hn (fun q t => ?_) (h.readTag hs ht)
      · simp
      · by_cases hpq : p = q
        · subst hpq; simp
        · simp [hpq]
      · obtain rfl := SlotKind.read.inj hk
        exact htag tag rfl
      · by_cases hpq : p = q
        · subst hpq
          show ((State.setPort _ p _).port p).readTags.getLsbD t.val = true ↔ _
          rw [State.port_setPort, if_pos rfl, getLsbD_addMember _ _ _ t.isLt, Bool.or_eq_true, decide_eq_true_eq]
          refine or_congr_right ⟨fun hv => ⟨rfl, by rw [Fin.ext hv]; rfl⟩, fun ⟨_, hk⟩ => ?_⟩
          exact congrArg Fin.val (SlotKind.read.inj hk).symm
        · simp [hpq, State.admittedSlot, Ne.symm hpq]
  · exact (h.talks (w.noteRefusal_talks p .read a _)).talks (Work.send_talks _ _ _)

theorem takeWrite_under {s : State} {w : Work} {n : HostSlotNumber} {p : Port} {a : PoolAddress} {length : BitVec 16}
    {data : List Byte} (h : w.Under s) (hn : w.st.slot n = none) (he : w.ending = []) :
    (takeWrite n p a length data w).Under s := by
  unfold takeWrite
  split
  · next i hadm =>
    obtain ⟨ho, -⟩ := State.checkAccess_admitted hadm
    refine ⟨h.st.trans (State.admission_keeps (p := p) (i := i) ho (fun j => ?_) (fun q => ?_) rfl rfl rfl rfl rfl),
      fun hs ht => ?_, h.engine, by simp [he]⟩
    · simp
    · by_cases hpq : p = q
      · subst hpq; simp
      · simp [hpq]
    · refine readTagLaw_fill (x := w.st.admittedSlot p .write a length.toNat i) (n := n) (s := w.st) (fun m => ?_)
        (fun q => ?_) ho rfl rfl (fun t hk => ?_) hn (fun q t => ?_) (h.readTag hs ht)
      · simp
      · simp
      · cases hk
      · simp [State.admittedSlot]
  · exact (h.talks (w.noteRefusal_talks p .write a _)).talks (Work.send_talks _ _ _)

theorem Work.Under.accessTaken (s : State) (p : Port) : (Work.start (s.accessTaken p)).Under s :=
  (Work.Under.start s).calm (w' := .start (s.accessTaken p)) ⟨s.accessTaken_calm p, .of_fields rfl rfl rfl, rfl⟩

theorem execReadTaking_lawfully {s t : State} (h : execReadTaking s = .next t) : s.Lawfully t := by
  unfold execReadTaking at h
  split at h
  · cases h
  next n hfree =>
  split at h
  · exact Work.Under.done (takeRead_under (.accessTaken s _) (State.freeSlot_free hfree) rfl) h
  · cases h

theorem execWriteTaking_lawfully {s t : State} (h : execWriteTaking s = .next t) : s.Lawfully t := by
  unfold execWriteTaking at h
  split at h
  · cases h
  next n hfree =>
  split at h
  · exact Work.Under.done (takeWrite_under (.accessTaken s _) (State.freeSlot_free hfree) rfl) h
  · cases h

/-! ## Completions (R117) -/

/-- What the memory controller does changes the pool, its own list of operations and the counter of choices. -/
structure State.PoolOnly (s t : State) : Prop where
  eq : t = { s with pool := t.pool, operations := t.operations, choices := t.choices }
  wf : s.pool.wf = true → t.pool.wf = true

theorem State.PoolOnly.refl (s : State) : s.PoolOnly s := ⟨rfl, id⟩

theorem State.PoolOnly.trans {a b c : State} (h : a.PoolOnly b) (h' : b.PoolOnly c) : a.PoolOnly c :=
  ⟨by rw [h'.eq, h.eq], h'.wf ∘ h.wf⟩

theorem State.PoolOnly.calm {s t : State} (h : s.PoolOnly t) : s.Calm t := by
  refine .of_fields ?_ ?_ ?_ ?_ ?_ ?_ ?_ h.wf <;> rw [h.eq]

theorem State.PoolOnly.engineKept {s t : State} (h : s.PoolOnly t) : s.EngineKept t := by
  refine .of_fields ?_ ?_ ?_ <;> rw [h.eq]

theorem State.carryOut_poolOnly (s : State) (k : HostSlotNumber) : s.PoolOnly (s.carryOut k) := by
  unfold State.carryOut
  split
  · exact .refl s
  · next o _ => exact ⟨rfl, PoolRequest.carryOut_wf o.request s.pool⟩

theorem State.carryOutUntil_poolOnly (k : HostSlotNumber) : ∀ (fuel : Nat) (l : List HostSlotNumber) (s : State),
    s.PoolOnly (State.carryOutUntil k fuel l s) := by
  intro fuel
  induction fuel with
  | zero => intro l s; cases l <;> exact .refl s
  | succ fuel ih =>
    intro l s
    cases l with
    | nil => exact .refl s
    | cons x rest =>
      unfold State.carryOutUntil
      extract_lets y _ s'
      have hstep : s.PoolOnly s' := (s.carryOut_poolOnly y).trans ⟨rfl, id⟩
      split
      · exact hstep
      · exact hstep.trans (ih _ _)

theorem State.carriedOut_poolOnly (s : State) (k : HostSlotNumber) : s.PoolOnly (s.carriedOut k) := by
  unfold State.carriedOut
  split
  · exact .refl s
  · split
    · exact .refl s
    · exact State.carryOutUntil_poolOnly k _ _ s

theorem Work.carriedOut_calm (w : Work) (k : HostSlotNumber) : w.Calm (w.onState (fun s => s.carriedOut k)) := by
  have h := w.st.carriedOut_poolOnly k
  exact ⟨h.calm, h.engineKept, rfl⟩

/-- Steps 2 and 3 of a completion: the slot's tag is free, and the slot is. -/
structure Work.Closes (w w' : Work) : Prop where
  keeps : w.Keeps w'
  epoch : ∀ p, (w'.st.port p).epoch = (w.st.port p).epoch

theorem Work.Closes.calm {a b c : Work} (h : a.Closes b) (h' : b.Calm c) : a.Closes c :=
  ⟨h.keeps.trans h'.keeps, fun p => (h'.st.ports p).slots.epoch.trans (h.epoch p)⟩

theorem State.noSlots_emptied {s t : State} {n : HostSlotNumber}
    (hslot : ∀ m, t.slot m = if n = m then none else s.slot m)
    {p : Port} (h : s.NoSlots p) : t.NoSlots p := by
  intro m x hm
  rw [hslot] at hm
  split at hm
  · cases hm
  · exact h m x hm

/-- A slot freed that no READ holds with a tag in use: a WRITE's, or an orphaned one. -/
theorem Work.closes_untagged (w : Work) {n : HostSlotNumber} {x : HostSlot} (hx : w.st.slot n = some x)
    (hk : ∀ tag, x.kind = .read tag → x.orphaned = true) :
    w.Closes (w.onState (fun s => (s.setSlot n none).forget n)) := by
  have hslot : ∀ m, ((w.st.setSlot n none).forget n).slot m = if n = m then none else w.st.slot m := fun m =>
    State.slot_setSlot w.st n m none
  refine ⟨⟨?_, fun h => ?_, .of_fields rfl rfl rfl, rfl, fun p => State.noSlots_emptied hslot⟩, fun _ => rfl⟩
  · exact ⟨fun hs => ⟨hs.link, hs.port⟩, fun _ h => h, fun _ h => h, id, id⟩
  · refine readTagLaw_empty hx hslot (fun _ => ⟨rfl, rfl⟩) (fun q tag => ?_) h
    refine ⟨fun hb => ⟨hb, ?_⟩, And.left⟩
    rintro ⟨-, hread, ho⟩
    rw [hk tag hread] at ho
    cases ho

/-- The read tag leaves the set of those in use (R112). -/
def State.freeReadTag (s : State) (p : Port) (tag : ReadTag) : State :=
  s.setPort p { s.port p with readTags := dropMember (s.port p).readTags tag.val }

theorem State.port_freeReadTag (s : State) (p q : Port) (tag : ReadTag) :
    (s.freeReadTag p tag).port q =
      if p = q then { s.port p with readTags := dropMember (s.port p).readTags tag.val } else s.port q :=
  State.port_setPort s p q _

theorem State.freeReadTag_keeps (s : State) (p : Port) (tag : ReadTag) : s.Keeps (s.freeReadTag p tag) := by
  refine State.setPort_keeps ⟨rfl, id, fun hn => ⟨hn, ?_⟩⟩ fun hs => hs.link p
  rintro ⟨hc, ht, hr, hrest⟩
  refine ⟨hc, ht, ?_, hrest⟩
  show dropMember _ _ = _
  rw [hr]
  exact BitVec.zero_and

/-- The tag of a READ freed with its slot. -/
theorem Work.closes_tagged (w : Work) {n : HostSlotNumber} {x : HostSlot} {tag : ReadTag}
    (hx : w.st.slot n = some x) (hk : x.kind = .read tag) (ho : x.orphaned = false) :
    w.Closes (w.onState (fun s => ((s.freeReadTag x.port tag).setSlot n none).forget n)) := by
  have hslot : ∀ m, (((w.st.freeReadTag x.port tag).setSlot n none).forget n).slot m =
      if n = m then none else w.st.slot m := fun m => State.slot_setSlot (w.st.freeReadTag x.port tag) n m none
  have hport : ∀ q, (((w.st.freeReadTag x.port tag).setSlot n none).forget n).port q =
      if x.port = q then { w.st.port x.port with readTags := dropMember (w.st.port x.port).readTags tag.val }
      else w.st.port q := fun q => w.st.port_freeReadTag x.port q tag
  have hstay : ∀ q, ((((w.st.freeReadTag x.port tag).setSlot n none).forget n).port q).state = (w.st.port q).state ∧
      ((((w.st.freeReadTag x.port tag).setSlot n none).forget n).port q).epoch = (w.st.port q).epoch := fun q => by
    rw [hport]; split
    · next hq => subst hq; exact ⟨rfl, rfl⟩
    · exact ⟨rfl, rfl⟩
  refine ⟨⟨?_, fun h => ?_, .of_fields rfl rfl rfl, rfl, fun p => State.noSlots_emptied hslot⟩, fun q => (hstay q).2⟩
  · have h := w.st.freeReadTag_keeps x.port tag
    exact ⟨fun hs => ⟨(h.sound hs).link, (h.sound hs).port⟩, h.holder, h.holdings, h.clock, h.pool⟩
  · refine readTagLaw_empty hx hslot hstay (fun q t => ?_) h
    rw [Work.onState_st, hport]
    split
    · next hq =>
      subst hq
      rw [getLsbD_dropMember _ _ _ t.isLt, Bool.and_eq_true, decide_eq_true_eq, hk, SlotKind.read.injEq]
      simp only [true_and, ho, and_true, ne_eq, Fin.ext_iff]
      exact and_congr_right fun _ => not_congr eq_comm
    · next hq => simp [Ne.symm hq]

theorem State.forget_calm (s : State) (n : HostSlotNumber) : s.Calm (s.forget n) :=
  .of_fields rfl rfl rfl rfl rfl rfl rfl id

theorem State.calm_of_forget (s : State) (n : HostSlotNumber) : (s.forget n).Calm s :=
  .of_fields rfl rfl rfl rfl rfl rfl rfl id

/-- A READ answered and its slot freed. -/
theorem Work.answerRead_closes (w : Work) {n : HostSlotNumber} {x : HostSlot} {tag : ReadTag}
    (hx : w.st.slot n = some x) (hk : x.kind = .read tag) (status : ReadStatus) (data : List Byte) :
    w.Closes ((w.answerRead x tag status data).onState (fun s => (s.setSlot n none).forget n)) := by
  cases ho : x.orphaned with
  | true =>
    simp only [Work.answerRead, ho, if_true]
    exact w.closes_untagged hx fun _ _ => ho
  | false =>
    have hanswer : w.answerRead x tag status data =
        (w.onState (fun s => s.freeReadTag x.port tag)).send x.port (.readDone tag status data) := by
      simp only [Work.answerRead, ho, Bool.false_eq_true, if_false]
      rfl
    rw [hanswer]
    have ht := Work.send_talks (w.onState (fun s => s.freeReadTag x.port tag)) x.port (.readDone tag status data)
    have hslot := ht.st.setSlot n none
    exact (w.closes_tagged hx hk ho).calm
      ⟨(State.calm_of_forget _ n).trans (hslot.calm.trans (State.forget_calm _ n)), hslot.lawfully.engine, ht.ending⟩

theorem Work.Under.endFence {s : State} {w : Work} (h : w.Under s) (p : Port)
    (hn : s.Sound → ReadTagLaw s → w.st.NoSlots p) : (w.endFence p).Under s := by
  refine ⟨?_, ?_, ?_, ?_⟩
  · rw [Work.endFence_st]; exact h.st
  · rw [Work.endFence_st]; exact h.readTag
  · rw [Work.endFence_st]; exact h.engine
  · intro q hq
    rw [Work.endFence_st]
    unfold Work.endFence at hq
    split at hq
    · exact h.ending q hq
    · simp only [List.mem_append, List.mem_singleton] at hq
      rcases hq with hq | rfl
      · exact h.ending q hq
      · exact hn

/-- A completion's last steps: a fence ends with the last slot of the port's epoch, since every slot of the port has it
(R113, R117). -/
theorem Work.Under.completeSlot {s : State} {v w : Work} {n : HostSlotNumber} {x : HostSlot} (h : v.Under s)
    (hx : v.st.slot n = some x) (hc : v.Closes (w.onState (fun s => (s.setSlot n none).forget n))) :
    (w.completeSlot n x).Under s := by
  unfold Work.completeSlot
  have hd := hc.calm (Work.drainOne_calm _ x.lease)
  extract_lets w'
  have hU : w'.Under s := h.keeps hd.keeps
  split
  · next hlast =>
    refine hU.endFence x.port fun hs ht => ?_
    have hepoch : x.epoch = (w'.st.port x.port).epoch :=
      (((h.readTag hs ht).2.2 n x hx).1).trans (hd.epoch x.port).symm
    refine fun m y hm hp => ?_
    have hy := ((hU.readTag hs ht).2.2 m y hm).1
    have hnone : ∀ z ∈ w'.st.slotsOf x.port, z.epoch ≠ x.epoch := by
      simp only [Bool.and_eq_true, State.noSlotOf, List.all_eq_true, decide_eq_true_eq] at hlast
      exact hlast.2
    refine hnone y ?_ (by rw [hy, hepoch, hp])
    simp only [State.slotsOf, List.mem_filter, List.mem_filterMap, decide_eq_true_eq]
    refine ⟨⟨some y, ?_, rfl⟩, hp⟩
    rw [← hm]
    exact List.getElem_mem _
  · exact hU

theorem execReadCompletion_lawfully {n : HostSlotNumber} {e : Bool} {s t : State}
    (h : execReadCompletion n e s = .next t) : s.Lawfully t := by
  unfold execReadCompletion at h
  split at h
  · cases h
  next x hx =>
  split at h
  · next tag hk =>
    split at h
    · refine Work.Under.done ?_ h
      have hcalm := Work.poolError_calm (.start s) x.lease x.address
      have hx' : ((Work.start s).poolError x.lease x.address).st.slot n = some x := by
        rw [State.slot, hcalm.st.hostSlots]; exact hx
      exact ((Work.Under.start s).calm hcalm).completeSlot hx' (Work.answerRead_closes _ hx' hk _ _)
    · refine Work.Under.done ?_ h
      have hcalm := Work.carriedOut_calm (.start s) n
      have hx' : ((Work.start s).onState (fun s => s.carriedOut n)).st.slot n = some x := by
        rw [State.slot, hcalm.st.hostSlots]; exact hx
      exact ((Work.Under.start s).calm hcalm).completeSlot hx' (Work.answerRead_closes _ hx' hk _ _)
  · cases h

theorem execWriteCompletion_lawfully {n : HostSlotNumber} {s t : State} (h : execWriteCompletion n s = .next t) :
    s.Lawfully t := by
  unfold execWriteCompletion at h
  split at h
  · cases h
  next x hx =>
  split at h
  · cases h
  · next hk =>
    refine Work.Under.done ?_ h
    have hcalm := Work.carriedOut_calm (.start s) n
    have hx' : ((Work.start s).onState (fun s => s.carriedOut n)).st.slot n = some x := by
      rw [State.slot, hcalm.st.hostSlots]; exact hx
    exact ((Work.Under.start s).calm hcalm).completeSlot hx'
      (Work.closes_untagged _ hx' fun tag hr => by rw [hk] at hr; cases hr)

end Sys2Proof.Machine
end

section
/-! Every event keeps the laws, concluded: the scrub engine, the service unit, the resets and the start-up; then the
step. -/

namespace Sys2Proof.Machine

open Sys2Proof.Safety

/-! ## The scrub engine (R94 to R97) -/

/-- The engine issues the zero-fill of the head extent's first granule, and none with the queue empty (R94). -/
theorem State.issueZeroFill_eq (s : State) :
    s.issueZeroFill = { s with scrubSlot := s.scrubQueue.head?.map Extent.base } := by
  unfold State.issueZeroFill
  split
  · next h => rw [h]; rfl
  · next h => rw [h]; rfl

theorem State.issueZeroFill_calm (s : State) : s.Calm s.issueZeroFill := by
  rw [State.issueZeroFill_eq]
  exact .of_fields rfl rfl rfl rfl rfl rfl rfl id

/-- What the engine issues is what its law asks of a ready part (R94, R95). -/
theorem State.issueZeroFill_engine (s : State) (hr : s.phase = .ready) : ScrubEngineLaw s.issueZeroFill := by
  rw [State.issueZeroFill_eq]
  exact (if_pos hr).symm

theorem Work.serveHeld_calm (w : Work) : w.st.Calm w.serveHeld.st ∧ w.serveHeld.ending = w.ending := by
  unfold Work.serveHeld
  split
  · exact ⟨.refl _, rfl⟩
  · next i rest _ =>
    have hfree : w.st.Calm { w.st.freeRecord i with held := rest } :=
      (State.Calm.setLease (.emptyRecord _ _)).trans (.of_fields rfl rfl rfl rfl rfl rfl rfl id)
    exact ⟨hfree.trans (State.joinScrubQueue_calm _ _), rfl⟩

theorem Work.shrinkHead_calm (w : Work) (g : Nat) :
    w.st.Calm (w.shrinkHead g).st ∧ (w.shrinkHead g).ending = w.ending := by
  have hfill : w.st.Calm { w.st with scrubSlot := none, pool := w.st.pool.refill g .zeroed } :=
    .of_fields rfl rfl rfl rfl rfl rfl rfl (Pool.refill_wf _ g .zeroed)
  unfold Work.shrinkHead
  extract_lets w1
  split
  · exact ⟨hfill, rfl⟩
  · next e rest _ =>
    split
    · have h := Work.serveHeld_calm (w1.onState (fun s => { s with scrubQueue := rest }))
      have hrest : w.st.Calm { w1.st with scrubQueue := rest } :=
        hfill.trans (.of_fields rfl rfl rfl rfl rfl rfl rfl id)
      exact ⟨hrest.trans h.1, h.2⟩
    · exact ⟨hfill.trans (.of_fields rfl rfl rfl rfl rfl rfl rfl id), rfl⟩

/-- A zero-fill completion of a part whose engine is lawful is one of a ready part, and the next zero-fill is issued
after its scan (R96). -/
theorem execZeroFillCompletion_lawfully {s t : State} (h : execZeroFillCompletion s = .next t) : s.Lawfully t := by
  unfold execZeroFillCompletion at h
  split at h
  · cases h
  next g hg =>
  refine Work.Under.done ?_ h
  obtain ⟨hcalm, hending⟩ := Work.shrinkHead_calm (.start s) g
  have hscan := Work.scan_keeps ((Work.start s).shrinkHead g)
  have hframe := Work.scan_frame ((Work.start s).shrinkHead g)
  have hissue := State.issueZeroFill_calm ((Work.start s).shrinkHead g).scan.st
  refine ⟨(hcalm.keeps.trans hscan.st).trans hissue.keeps,
    fun _ => hissue.readTagLaw ∘ hscan.readTag ∘ hcalm.readTagLaw, fun hlaw => ?_, fun p hp => ?_⟩
  · refine State.issueZeroFill_engine _ ?_
    rw [hframe.phase, hcalm.phase]
    by_contra hr
    have hnone : s.scrubSlot = none := by rw [hlaw]; exact if_neg hr
    rw [hnone] at hg
    cases hg
  · rw [Work.onState_ending, hscan.ending, hending] at hp
    cases hp

/-! ## Profiles in range (R154, R174) -/

theorem Profile.inRange_iff (f : Profile) : f.inRange = true ↔
    (1 ≤ f.poolGranules ∧ f.poolGranules ≤ 65536) ∧ (∀ p : Port, (f.ports.get p).inRange = true) ∧
      ∀ n : EntryNumber, (f.standing.get n).inRange = true := by
  simp only [Profile.inRange, Bool.and_eq_true, decide_eq_true_eq, List.all_eq_true, and_assoc, and_congr_right_iff]
  intro _ _
  refine and_congr ⟨fun h p => h _ (List.getElem_mem (by simp)), fun h q hq => ?_⟩
    ⟨fun h n => h _ (List.getElem_mem (by simp)), fun h e he => ?_⟩
  · obtain ⟨k, hk, rfl⟩ := List.getElem_of_mem hq
    exact h ⟨k, by simpa using hk⟩
  · obtain ⟨k, hk, rfl⟩ := List.getElem_of_mem he
    exact h ⟨k, by simpa using hk⟩

theorem vector_get_set {α : Type} {n : Nat} (v : Vector α n) (i j : Fin n) (x : α) :
    (v.set i x).get j = if i = j then x else v.get j := by
  simp only [Vector.get_eq_getElem, Vector.getElem_set, Fin.ext_iff]

theorem Profile.withPolicy_inRange {f : Profile} {p : Port} {q : PortPolicy} (hf : f.inRange = true)
    (hq : q.inRange = true) : (f.withPolicy p q).inRange = true := by
  obtain ⟨hg, hp, hn⟩ := f.inRange_iff.1 hf
  refine (Profile.inRange_iff _).2 ⟨hg, fun r => ?_, hn⟩
  rw [Profile.withPolicy, vector_get_set]
  split
  · exact hq
  · exact hp r

theorem Profile.withEntry_inRange {f : Profile} {n : EntryNumber} {e : StandingEntry} (hf : f.inRange = true)
    (he : e.inRange = true) : (f.withEntry n e).inRange = true := by
  obtain ⟨hg, hp, hn⟩ := f.inRange_iff.1 hf
  refine (Profile.inRange_iff _).2 ⟨hg, hp, fun m => ?_⟩
  rw [Profile.withEntry, vector_get_set]
  split
  · exact he
  · exact hn m

theorem within_eq_some {low high v n : Nat} (h : within low high v = some n) : low ≤ n ∧ n ≤ high := by
  unfold within at h
  split at h
  · next hv => obtain rfl := Option.some.inj h; exact hv
  · cases h

/-- A field written within its range leaves the profile in range. -/
theorem Profile.writeField_inRange {f q : Profile} {x : ProfileField} {v : Nat} (hf : f.inRange = true)
    (h : f.writeField x v = some q) : q.inRange = true := by
  obtain ⟨hg, hp, hn⟩ := f.inRange_iff.1 hf
  have hpolicy : ∀ {p : Port} {r : PortPolicy}, r.inRange = true → (f.withPolicy p r).inRange = true :=
    Profile.withPolicy_inRange hf
  have hentry : ∀ {n : EntryNumber} {e : StandingEntry}, e.inRange = true → (f.withEntry n e).inRange = true :=
    Profile.withEntry_inRange hf
  cases x
  all_goals
    simp only [Profile.writeField, Option.map_eq_some_iff] at h
    obtain ⟨n, hv, rfl⟩ := h
  case poolGranules => exact (Profile.inRange_iff _).2 ⟨within_eq_some hv, hp, hn⟩
  case initScrub => exact (Profile.inRange_iff _).2 ⟨hg, hp, hn⟩
  case scrubOnRetire => exact (Profile.inRange_iff _).2 ⟨hg, hp, hn⟩
  case reachBase p | reachLimit p | granuleQuota p | leaseQuota p | maxTerm p | ackTimeout p =>
    have hr := hp p
    have hv := within_eq_some hv
    simp only [PortPolicy.inRange, decide_eq_true_eq] at hr
    refine hpolicy ?_
    simp only [PortPolicy.inRange, decide_eq_true_eq]
    omega
  case indefiniteOk p => exact hpolicy (hp p)
  case entryBase e | entryCount e =>
    have hr := hn e
    have hv := within_eq_some hv
    simp only [StandingEntry.inRange, decide_eq_true_eq] at hr
    refine hentry ?_
    simp only [StandingEntry.inRange, decide_eq_true_eq]
    omega
  case entryUsed e | entryKind e | entryRight e _ | entryScrub e => exact hentry (hn e)

theorem factoryProfile_inRange : factoryProfile.inRange = true := by decide

/-- The image of a valid slot is in range (R154). -/
theorem State.validImage_inRange {s : State} {n : Fin 4} {f : Profile} (h : s.validImage n = some f) :
    f.inRange = true := by
  unfold State.validImage at h
  split at h
  · obtain rfl := Option.some.inj h; exact factoryProfile_inRange
  · extract_lets x at h
    split at h
    · next hv =>
      obtain rfl := Option.some.inj h
      simp only [ProfileSlot.valid, Bool.and_eq_true] at hv
      exact hv.2
    · cases h

/-! ## The service unit (Chapter 11) -/

theorem State.putResponse_calm (s : State) (code : Byte) (r : ServiceResult) (fields : List Byte) :
    s.Calm (s.putResponse code r fields) := .of_fields rfl rfl rfl rfl rfl rfl rfl id

/-- A request that a ready part takes keeps the laws when its effects do. -/
theorem service_lawfully {code : Byte} {act : Work → Work × ServiceResult × List Byte} {s t : State}
    (h : service code act s = .next t) (hact : s.phase = .ready → (act (.start s)).1.Under s) : s.Lawfully t := by
  rcases service_next h with ⟨-, rfl⟩ | ⟨hr, rfl⟩
  · exact .refl _
  · exact ((hact hr).onState (State.putResponse_calm _ _ _ _) (.of_fields rfl rfl rfl)).settle

theorem report_lawfully {code : Byte} {fields : State → List Byte} {s t : State}
    (h : report code fields s = .next t) : s.Lawfully t := service_lawfully h fun _ => .start s

/-- An effect on nothing that the laws speak of, of a request that begins. -/
theorem Work.Under.startOnState {s t : State} (h : s.Lawfully t) : (Work.start t).Under s :=
  ⟨h.st, h.readTag, h.engine, by simp⟩

theorem execBadFrame_lawfully {l : List Byte} {s t : State} (h : execBadFrame l s = .next t) : s.Lawfully t := by
  unfold execBadFrame at h
  split at h
  · exact service_lawfully h fun _ => .start s
  · cases h

theorem execBadCommand_lawfully {l : List Byte} {s t : State} (h : execBadCommand l s = .next t) : s.Lawfully t := by
  unfold execBadCommand at h
  split at h
  · exact service_lawfully h fun _ => .start s
  · cases h

theorem execPortStatus_lawfully {b : Byte} {s t : State} (h : execPortStatus b s = .next t) : s.Lawfully t :=
  service_lawfully h fun _ => by split <;> exact .start s

theorem execLeaseRead_lawfully {b : BitVec 16} {s t : State} (h : execLeaseRead b s = .next t) : s.Lawfully t :=
  service_lawfully h fun _ => by split <;> exact .start s

theorem execLeaseNext_lawfully {b : BitVec 24} {s t : State} (h : execLeaseNext b s = .next t) : s.Lawfully t :=
  service_lawfully h fun _ => by split <;> exact .start s

theorem execFieldRead_lawfully {x : Selector} {s t : State} (h : execFieldRead x s = .next t) : s.Lawfully t :=
  service_lawfully h fun _ => by split <;> exact .start s

theorem execAlertClear_lawfully {b : BitVec 16} {s t : State} (h : execAlertClear b s = .next t) : s.Lawfully t :=
  service_lawfully h fun _ => by
    split
    · exact Work.Under.startOnState (.of_fields rfl rfl rfl rfl rfl rfl rfl rfl rfl rfl)
    · exact .start s

theorem execAlertMask_lawfully {b : BitVec 16} {s t : State} (h : execAlertMask b s = .next t) : s.Lawfully t :=
  service_lawfully h fun _ => by
    split
    · exact Work.Under.startOnState (.of_fields rfl rfl rfl rfl rfl rfl rfl rfl rfl rfl)
    · exact .start s

theorem execRefusalClear_lawfully {b : Byte} {s t : State} (h : execRefusalClear b s = .next t) : s.Lawfully t :=
  service_lawfully h fun _ => by
    split
    · exact .start s
    · exact Work.Under.startOnState (.setPort_calm (.of_fields rfl rfl rfl rfl rfl rfl rfl id fun _ => id))

theorem execPortReset_lawfully {b : Byte} {s t : State} (h : execPortReset b s = .next t) : s.Lawfully t :=
  service_lawfully h fun hr => by
    split
    · exact .start s
    · dsimp only
      split
      · exact (Work.Under.start s).fenceStart _ .reset none (fun _ => hr) fun _ _ => rfl
      · exact .start s

theorem forceRevoke_under {s : State} {w : Work} (h : w.Under s) (hd : Handle) (grace : Nat) :
    (forceRevoke hd grace w).1.Under s := by
  unfold forceRevoke
  extract_lets r
  split
  · exact h
  next hres =>
  split
  · exact h
  next hdrain =>
  have hforce : r.inForce = true := State.inForce_of_resolves hres hdrain
  split
  · exact h.calm (w.revokeAll_calm hd.index)
  split
  · split
    · exact h
    · exact h.calm (w.giveNotice_calm hd.index _ hforce)
  · exact h.calm (w.giveNotice_calm hd.index _ hforce)

theorem execForceRevoke_lawfully {hd : Handle} {b : BitVec 16} {s t : State}
    (h : execForceRevoke hd b s = .next t) : s.Lawfully t :=
  service_lawfully h fun _ => by
    split
    · exact .start s
    · exact forceRevoke_under (.start s) hd b.toNat

theorem State.setRunning_calm {s : State} {q : Profile} (hq : s.running.inRange = true → q.inRange = true) :
    s.Calm { s with running := q } :=
  ⟨fun _ => .refl _, fun _ => .refl _, rfl, rfl, hq, .rfl, id, id⟩

theorem Work.Under.setRunning {s : State} {w : Work} (h : w.Under s) {q : Profile}
    (hq : w.st.running.inRange = true → q.inRange = true) :
    (w.onState (fun t => { t with running := q })).Under s :=
  h.onState (f := fun t => { t with running := q }) (State.setRunning_calm hq) (.of_fields rfl rfl rfl)

theorem execFieldWrite_lawfully {x : Selector} {v : BitVec 24} {s t : State} (h : execFieldWrite x v s = .next t) :
    s.Lawfully t :=
  service_lawfully h fun _ => by
    split
    · exact .start s
    next f _ =>
    split
    · exact .start s
    next q hq =>
    have hrun := (Work.Under.start s).setRunning (q := q) fun hf => Profile.writeField_inRange hf hq
    dsimp only
    split
    · exact hrun.calm (.needScan _)
    · exact hrun

theorem execProfileSave_lawfully {b : Byte} {s t : State} (h : execProfileSave b s = .next t) : s.Lawfully t :=
  service_lawfully h fun _ => by
    split
    · exact .start s
    split
    · exact .start s
    split
    · exact .start s
    exact Work.Under.startOnState (.of_fields rfl rfl rfl rfl rfl rfl rfl rfl rfl rfl)

theorem execProfileLoad_lawfully {b : Byte} {s t : State} (h : execProfileLoad b s = .next t) : s.Lawfully t :=
  service_lawfully h fun _ => by
    split
    · exact .start s
    split
    · exact .start s
    split
    · exact .start s
    next f hf =>
    exact ((Work.Under.start s).setRunning fun _ => State.validImage_inRange hf).calm (.needScan _)

theorem execBootSelect_lawfully {b : Byte} {s t : State} (h : execBootSelect b s = .next t) : s.Lawfully t :=
  service_lawfully h fun _ => by
    split
    · exact .start s
    split
    · exact .start s
    exact Work.Under.startOnState (.of_fields rfl rfl rfl rfl rfl rfl rfl rfl rfl rfl)

theorem execNvOperationComplete_lawfully {b : Bool} {s t : State} (h : execNvOperationComplete b s = .next t) :
    s.Lawfully t := by
  unfold execNvOperationComplete at h
  split at h
  · cases h
  next o _ =>
  split at h
  · rw [next_inj h]
    cases o <;> exact .of_fields rfl rfl rfl rfl rfl rfl rfl rfl rfl rfl
  · rw [next_inj h]
    exact .of_fields rfl rfl rfl rfl rfl rfl rfl rfl rfl rfl

/-! ## Start-up and resets (Chapter 10) -/

/-- The start-up steps 3 to 6 on a part that is not ready, and stays so: leases come that are standing, and nothing
else that the laws speak of changes. -/
theorem startedUp_lawfully {s t : State} (hn : s.phase ≠ .ready) (hn' : t.phase ≠ .ready)
    (hl : ∀ i, t.lease i = s.lease i ∨ (t.lease i).Fresh) (hp : t.ports = s.ports) (hw : t.waitQueue = s.waitQueue)
    (hs : t.hostSlots = s.hostSlots) (hr : s.running.inRange = true → t.running.inRange = true)
    (hc : t.clock = s.clock) (hpool : t.pool = s.pool) (hslot : t.scrubSlot = s.scrubSlot) : s.Lawfully t := by
  have hphase : t.phase = .ready ↔ s.phase = .ready := ⟨fun h => absurd h hn', fun h => absurd h hn⟩
  refine State.Calm.lawfully ⟨fun i => ?_, fun p => ?_, hw, hs, hr, hphase, ?_, ?_⟩ ?_
  · rcases hl i with h | h
    · rw [h]; exact .refl _
    · exact h.loosens _
  · rw [State.port_eq_of_ports_eq hp]; exact .refl _
  · exact fun h _ => hc.trans (h hn)
  · rw [hpool]; exact id
  · intro h
    unfold ScrubEngineLaw at h ⊢
    rw [if_neg hn'] at *
    rw [if_neg hn] at h
    exact hslot.trans h

theorem State.Lawfully.startUp {s : State} {source : StartUpSource} {fallback : Option FallbackReason} {ph : Phase}
    (hn : s.phase ≠ .ready) (hn' : ph ≠ .ready) : s.Lawfully { s.startUp source fallback with phase := ph } := by
  have honly := (captured s s.running source fallback).instantiate_only
  have hfresh := (captured s s.running source fallback).instantiate_fresh_or
  refine startedUp_lawfully hn hn' hfresh ?_ ?_ ?_ ?_ ?_ ?_ ?_
  · exact honly.ports_eq
  · exact honly.waitQueue_eq
  · exact honly.hostSlots_eq
  · exact fun h => (congrArg Profile.inRange honly.running_eq).trans h
  · exact honly.clock_eq
  · exact honly.pool_eq
  · exact honly.scrubSlot_eq

theorem State.bootSource_inRange (s : State) : s.bootSource.2.1.inRange = true := by
  unfold State.bootSource
  split
  · exact factoryProfile_inRange
  · split
    · next h => exact State.validImage_inRange h
    · exact factoryProfile_inRange

/-- Steps 1 to 6 of a power-on start-up keep the laws of a part not yet ready. -/
theorem State.Lawfully.powerOnStartUp {s : State} (hn : s.phase ≠ .ready) : s.Lawfully s.powerOnStartUp := by
  have hload : ∀ u : State, s.Lawfully u → s.Lawfully { u with running := s.bootSource.2.1 } := fun u hu =>
    hu.trans ((State.setRunning_calm fun _ => s.bootSource_inRange).lawfully (.of_fields rfl rfl rfl))
  unfold State.powerOnStartUp
  extract_lets b s1
  have hs1 : s.Lawfully s1 ∧ s1.phase = s.phase := by
    simp only [s1]
    split
    · exact ⟨.setAlert s _, rfl⟩
    · exact ⟨.refl s, rfl⟩
  have hn1 : s1.phase ≠ .ready := by rw [hs1.2]; exact hn
  exact (hload s1 hs1.1).trans (.startUp hn1 (by simp))

/-- A port right after a reset: DOWN, with nothing in store (R152, R153). -/
structure PortRecord.Cleared (r : PortRecord) : Prop where
  state : r.state = .down
  linkFlag : r.linkFlag = false
  helloPending : r.helloPending = none
  offline : r.Offline

/-- A part right after a reset (R2, R21, R73, R102, R114, R125, R153). -/
structure State.WasReset (t : State) : Prop where
  ports : ∀ p, (t.port p).Cleared
  waitQueue : t.waitQueue = []
  slots : ∀ n, t.slot n = none
  leases : ∀ i, (t.lease i).Fresh
  clock : t.clock = 0
  scrubSlot : t.scrubSlot = none

theorem LeaseRecord.Fresh.not_counts {r : LeaseRecord} (h : r.Fresh) (p : Port) : r.countsFor p = false := by
  cases hs : r.standing with
  | none => simp [LeaseRecord.countsFor, LeaseRecord.holds, h.unheld hs]
  | some n => simp [LeaseRecord.countsFor, hs]

theorem State.WasReset.linkLaw {t : State} (h : t.WasReset) (hn : t.phase ≠ .ready) : LinkLaw t := by
  refine (linkLaw_iff t).2 fun p => ?_
  obtain ⟨hst, hf, hh, -⟩ := h.ports p
  exact ⟨fun _ => hh, fun _ => hh, fun hready => absurd hready hn, fun _ => ⟨hst, hf⟩⟩

theorem State.WasReset.portLaw {t : State} (h : t.WasReset) : PortLaw t := by
  rw [portLaw_iff, h.waitQueue]
  refine ⟨fun i => (h.leases i).resting, ⟨by simp, by simp, .nil⟩, fun p tag => ?_, fun p => ?_, fun p _ =>
    ⟨fun i hs => by simp [LeaseRecord.holds, (h.leases i).unheld hs], by simp, (h.ports p).offline⟩⟩
  · simp [(h.ports p).offline.2.1]
  · exact NotificationUnit.lawful_of_empty (h.ports p).offline.2.2.2.1

theorem State.WasReset.leasesHeld {t : State} (h : t.WasReset) (p : Port) : t.leasesHeld p = 0 := by
  rw [State.leasesHeld_eq_card]
  simp [(h.leases _).not_counts p]

theorem State.WasReset.readTagLaw {t : State} (h : t.WasReset) : ReadTagLaw t := by
  refine ⟨fun m n x y tag _ hm => ?_, fun p tag => ?_, fun n x hx => ?_⟩
  · rw [h.slots] at hm; cases hm
  · simp [h.slots, (h.ports p).offline.2.2.1]
  · rw [h.slots] at hx; cases hx

theorem State.WasReset.scrubEngineLaw {t : State} (h : t.WasReset) (hn : t.phase ≠ .ready) : ScrubEngineLaw t := by
  unfold ScrubEngineLaw
  rw [if_neg hn, h.scrubSlot]

/-- Every law holds of a part right after a reset. -/
theorem State.WasReset.lawfully {s t : State} (h : t.WasReset) (hn : t.phase ≠ .ready)
    (hr : s.running.inRange = true → t.running.inRange = true) (hpool : s.pool.wf = true → t.pool.wf = true) :
    s.Lawfully t :=
  ⟨⟨fun _ => ⟨h.linkLaw hn, h.portLaw⟩, fun _ _ i => (h.leases i).lawful,
    fun _ hh => ⟨hr hh.1, fun p => (h.leasesHeld p).trans_le (Nat.zero_le _)⟩, fun _ _ => h.clock, hpool⟩,
    fun _ _ => h.readTagLaw, fun _ => h.scrubEngineLaw hn⟩

theorem slot_of_replicate {s : State} (h : s.hostSlots = Vector.replicate 63 none) (n : HostSlotNumber) :
    s.slot n = none := by
  simp [State.slot, h]

theorem State.powerOnBlank_port (s : State) (p : Port) : s.powerOnBlank.port p = powerOnPort := by
  simp [State.port, State.powerOnBlank, State.reset]

theorem State.powerOnBlank_lease (s : State) (i : RecordIndex) : s.powerOnBlank.lease i = emptyRecord 0 := by
  simp [State.lease, State.powerOnBlank, State.reset]

theorem State.powerOnBlank_wasReset (s : State) (ph : Phase) :
    State.WasReset { s.powerOnBlank with phase := ph } where
  ports p := by
    rw [show State.port { s.powerOnBlank with phase := ph } p = powerOnPort from s.powerOnBlank_port p]
    exact ⟨rfl, rfl, rfl, ⟨rfl, rfl, rfl, rfl, rfl, rfl⟩⟩
  waitQueue := rfl
  slots n := slot_of_replicate rfl n
  leases i := by
    rw [show State.lease { s.powerOnBlank with phase := ph } i = emptyRecord 0 from s.powerOnBlank_lease i]
    exact LeaseRecord.fresh_emptyRecord 0
  clock := rfl
  scrubSlot := rfl

theorem State.Lawfully.powerOnBlank (s : State) {ph : Phase} (hn : ph ≠ .ready) :
    s.Lawfully { s.powerOnBlank with phase := ph } :=
  (s.powerOnBlank_wasReset ph).lawfully hn (fun _ => factoryProfile_inRange) fun _ => rfl

theorem execPowerOnReset_lawfully {s t : State} (h : execPowerOnReset s = .next t) : s.Lawfully t := by
  unfold execPowerOnReset at h
  split at h
  · rw [next_inj h]
    exact .powerOnBlank s (by simp)
  · rw [next_inj h]
    have hblank : s.Lawfully s.powerOnBlank := State.Lawfully.powerOnBlank s (ph := .startingUp true) (by simp)
    exact hblank.trans (.powerOnStartUp (show Phase.startingUp true ≠ .ready by simp))

/-! ### Device reset -/

/-- What abandoning the operations in flight changes: the pool, the memory controller's list, the scrub slot and the
counter of choices (R102, R124). -/
structure State.Abandons (s t : State) : Prop where
  eq : t = { s with pool := t.pool, operations := t.operations, choices := t.choices, scrubSlot := t.scrubSlot }
  wf : s.pool.wf = true → t.pool.wf = true

theorem State.Abandons.trans {a b c : State} (h : a.Abandons b) (h' : b.Abandons c) : a.Abandons c :=
  ⟨by rw [h'.eq, h.eq], h'.wf ∘ h.wf⟩

theorem abandonOne_abandons (s : State) (o : PoolOperation) : s.Abandons (abandonOne s o) := by
  unfold abandonOne
  split
  · exact ⟨rfl, id⟩
  · refine ⟨rfl, fun h => ?_⟩
    dsimp only
    split
    · exact Pool.writeBytes_wf _ _ _ h
    · exact h

theorem State.abandonZeroFill_abandons (s : State) :
    s.Abandons s.abandonZeroFill ∧ s.abandonZeroFill.scrubSlot = none := by
  unfold State.abandonZeroFill
  split
  · next h => exact ⟨⟨rfl, id⟩, h⟩
  · exact ⟨⟨rfl, Pool.refill_wf _ _ _⟩, rfl⟩

theorem State.abandonOperations_abandons (s : State) :
    s.Abandons s.abandonOperations ∧ s.abandonOperations.scrubSlot = none := by
  unfold State.abandonOperations
  extract_lets left s1
  have h1 : s.Abandons s1 := ⟨rfl, id⟩
  have hfold := foldl_keeps (Q := s.Abandons) abandonOne (fun a o ha => ha.trans (abandonOne_abandons a o))
    (anyOrder left.length s.choices left) s1 h1
  have hzero := State.abandonZeroFill_abandons ((anyOrder left.length s.choices left).foldl abandonOne s1)
  exact ⟨hfold.trans hzero.1, hzero.2⟩

/-- The blocks after a device reset, field by field. -/
theorem State.deviceResetBlocks_eq (s : State) : s.deviceResetBlocks =
    { s with
      clock := 0
      leases := mapVector (fun r => emptyRecord r.generation) s.leases
      held := []
      ports := mapVector PortRecord.deviceReset s.ports
      waitQueue := []
      commandServed := 3
      accessServed := 3
      hostSlots := Vector.replicate 63 none
      scrubSlot := none
      scrubQueue := []
      operations := s.abandonOperations.operations
      pool := s.abandonOperations.pool
      nvOperation := none
      alertCauses := 0
      choices := s.abandonOperations.choices } := by
  obtain ⟨⟨heq, -⟩, hslot⟩ := s.abandonOperations_abandons
  unfold State.deviceResetBlocks
  extract_lets s1
  rw [show s1 = s.abandonOperations from rfl, hslot] at *
  rw [heq]

theorem State.deviceResetBlocks_port (s : State) (p : Port) :
    s.deviceResetBlocks.port p = (s.port p).deviceReset := by
  rw [State.deviceResetBlocks_eq]
  simp [State.port]

theorem State.deviceResetBlocks_lease (s : State) (i : RecordIndex) :
    s.deviceResetBlocks.lease i = emptyRecord (s.lease i).generation := by
  rw [State.deviceResetBlocks_eq]
  simp [State.lease]

end Sys2Proof.Machine
end

section
/-! The last rows: device reset, RESET# and readiness; then every command, every step, and the two obligations on the
laws of the device. -/

namespace Sys2Proof.Machine

open Sys2Proof.Safety

/-! ## Device reset and RESET# (R161, R173) -/

theorem State.deviceResetBlocks_wasReset (s : State) : s.deviceResetBlocks.WasReset where
  ports p := by
    rw [State.deviceResetBlocks_port]
    exact ⟨rfl, rfl, rfl, ⟨rfl, rfl, rfl, rfl, rfl, rfl⟩⟩
  waitQueue := by rw [State.deviceResetBlocks_eq]
  slots n := slot_of_replicate (by rw [State.deviceResetBlocks_eq]) n
  leases i := by
    rw [State.deviceResetBlocks_lease]
    exact LeaseRecord.fresh_emptyRecord _
  clock := by rw [State.deviceResetBlocks_eq]
  scrubSlot := by rw [State.deviceResetBlocks_eq]

/-- The standing leases of the start-up leave a part right after a reset that. -/
theorem State.WasReset.startUp {s : State} (h : s.WasReset) (source : StartUpSource) (fallback : Option FallbackReason)
    (ph : Phase) : State.WasReset { s.startUp source fallback with phase := ph } := by
  have honly := (captured s s.running source fallback).instantiate_only
  refine ⟨fun p => ?_, honly.waitQueue_eq.trans h.waitQueue, fun n => ?_, fun i => ?_, honly.clock_eq.trans h.clock,
    honly.scrubSlot_eq.trans h.scrubSlot⟩
  · have hport : State.port { s.startUp source fallback with phase := ph } p = s.port p :=
      State.port_eq_of_ports_eq (t := s) honly.ports_eq p
    rw [hport]
    exact h.ports p
  · have hslot : State.slot { s.startUp source fallback with phase := ph } n = s.slot n :=
      congrArg (fun v => v[n]) honly.hostSlots_eq
    rw [hslot]
    exact h.slots n
  · rcases (captured s s.running source fallback).instantiate_fresh_or i with hi | hi
    · exact hi.symm ▸ h.leases i
    · exact hi

theorem State.deviceResetBlocks_wf {s : State} (h : s.pool.wf = true) : s.deviceResetBlocks.pool.wf = true :=
  s.abandonOperations_abandons.1.wf h

theorem execResetAssert_lawfully {s t : State} (h : execResetAssert s = .next t) : s.Lawfully t := by
  unfold execResetAssert at h
  split at h
  · cases h
  · rw [next_inj h]
    have hreset := s.deviceResetBlocks_wasReset
    refine State.WasReset.lawfully ⟨hreset.ports, hreset.waitQueue, hreset.slots, hreset.leases, hreset.clock,
      hreset.scrubSlot⟩ (by simp) (fun hr => ?_) State.deviceResetBlocks_wf
    rw [State.deviceResetBlocks_eq]
    exact hr

theorem execDeviceReset_lawfully {s t : State} (h : execDeviceReset s = .next t) : s.Lawfully t := by
  unfold execDeviceReset at h
  split at h
  · rw [next_inj h]; exact .refl s
  · rw [next_inj h]
    have honly := fun u : State => (captured u u.running .kept none).instantiate_only
    refine ((State.deviceResetBlocks_wasReset _).startUp .kept none (.startingUp false)).lawfully (by simp)
      (fun hr => ?_) (fun hp => ?_)
    · refine (congrArg Profile.inRange (honly _).running_eq).trans ?_
      rw [State.deviceResetBlocks_eq]
      exact hr
    · refine (congrArg Pool.wf (honly _).pool_eq).trans ?_
      exact State.deviceResetBlocks_wf (s := s.putResponse 0x0E .ok []) hp

theorem execResetRelease_lawfully {s t : State} (h : execResetRelease s = .next t) : s.Lawfully t := by
  unfold execResetRelease at h
  split at h
  · next hp =>
    rw [next_inj h]
    exact .powerOnStartUp (by simp [hp])
  · next hp =>
    rw [next_inj h]
    exact .startUp (by simp [hp]) (by simp)
  · cases h
  · cases h

/-! ## Readiness (R160) -/

theorem State.port_placed (s : State) (p : Port) :
    State.port { s with phase := .ready, ports := mapVector PortRecord.place s.ports } p = (s.port p).place := by
  simp [State.port]

theorem PortRecord.place_of_lineUp {r : PortRecord} (h : r.lineUp = true) :
    r.place = { r with state := .linked, linkFlag := true } := if_pos h

theorem PortRecord.place_of_not_lineUp {r : PortRecord} (h : r.lineUp = false) :
    r.place = { r with state := .down, linkFlag := false } := if_neg (by simp [h])

theorem PortRecord.place_lawful {r : PortRecord} (hh : r.helloPending = none) {ready : Prop} (hr : ready) :
    r.place.LinkLawful ready := by
  cases hl : r.lineUp
  · rw [PortRecord.place_of_not_lineUp hl]
    exact ⟨fun _ => hh, fun _ => hh, fun _ => ⟨hl.symm, fun _ => rfl, by simp⟩, fun hn => absurd hr hn⟩
  · rw [PortRecord.place_of_lineUp hl]
    exact ⟨fun _ => hh, fun _ => hh, fun _ => ⟨hl.symm, by simp, fun _ => rfl⟩, fun hn => absurd hr hn⟩

theorem PortRecord.place_idle (r : PortRecord) : r.place.Idle := by
  unfold PortRecord.place
  split
  · exact .inr rfl
  · exact .inl rfl

theorem PortRecord.place_quiet {r : PortRecord} (h : r.state = .down) : r.Quiet r.place := by
  unfold PortRecord.place
  split <;> exact ⟨rfl, id, fun _ => ⟨by simp [h], id⟩⟩

theorem PortRecord.place_slotQuiet {r : PortRecord} (h : r.state = .down) : r.SlotQuiet r.place :=
  ⟨.inr ⟨.inl h, r.place_idle⟩, by unfold PortRecord.place; split <;> rfl,
    by unfold PortRecord.place; split <;> rfl⟩

/-- The ports of a part that becomes ready are placed by their links (R152, R153). -/
theorem State.placed_keeps {s : State} (hn : s.phase ≠ .ready) :
    s.Keeps { s with phase := .ready, ports := mapVector PortRecord.place s.ports } ∧
      (s.Sound → ReadTagLaw s →
        ReadTagLaw { s with phase := .ready, ports := mapVector PortRecord.place s.ports }) := by
  have hdown : s.Sound → ∀ p, (s.port p).state = .down := fun hs p => ((hs.link p).2.2.2 hn).1
  refine ⟨⟨fun hs => ⟨(linkLaw_iff _).2 fun p => ?_, ?_⟩, fun _ h => h, fun _ h => h, fun _ hr => absurd rfl hr, id⟩,
    fun hs => ?_⟩
  · rw [State.port_placed]
    exact PortRecord.place_lawful ((hs.link p).1 (by rw [hdown hs p]; simp)) rfl
  · refine portLaw_of_quiet (s := s) (fun _ => .refl _) rfl (fun p => ?_) hs.port
    rw [State.port_placed]
    exact PortRecord.place_quiet (hdown hs p)
  · refine readTagLaw_of_quiet (s := s) rfl fun p => ?_
    rw [State.port_placed]
    exact PortRecord.place_slotQuiet (hdown hs p)

/-- Readiness after power-on sets alerts alone (R152). -/
theorem State.linkAlerts_eq (s : State) : s.linkAlerts = { s with alertCauses := s.linkAlerts.alertCauses } := by
  refine foldl_keeps (Q := fun t : State => t = { s with alertCauses := t.alertCauses }) _ (fun t p ht => ?_) _ s rfl
  split
  · rw [ht]; rfl
  · exact ht

theorem State.linkAlerts_calm (s : State) : s.Calm s.linkAlerts := by
  rw [State.linkAlerts_eq]
  exact .of_fields rfl rfl rfl rfl rfl rfl rfl id

theorem execBecomeReady_lawfully {s t : State} (h : execBecomeReady s = .next t) : s.Lawfully t := by
  unfold execBecomeReady at h
  split at h
  · next powerOn hp =>
    extract_lets s1 at h
    rw [next_inj h]
    obtain ⟨hplaced, htags⟩ := State.placed_keeps (s := s) (by simp [hp])
    have halerts : s1.Calm (if powerOn = true then s1.linkAlerts else s1) := by
      split
      · exact s1.linkAlerts_calm
      · exact .refl s1
    have hissue := halerts.trans (State.issueZeroFill_calm _)
    exact ⟨hplaced.trans hissue.keeps, fun hs => hissue.readTagLaw ∘ htags hs,
      fun _ => State.issueZeroFill_engine _ (halerts.phase.2 rfl)⟩
  all_goals cases h

/-! ## Every command and every step -/

theorem exec_lawfully {c : Instr} {s t : State} (h : exec c s = .next t) : s.Lawfully t := by
  cases c with
  | readArrival p k => exact execReadArrival_lawfully h
  | writeArrival p k => exact execWriteArrival_lawfully h
  | commandArrival p k => exact execCommandArrival_lawfully h
  | noticeAck p k => exact execNoticeAck_lawfully h
  | hello p k => exact execHello_lawfully h
  | linkUp p => exact execLinkUp_lawfully h
  | linkLoss p => exact execLinkLoss_lawfully h
  | packetSent p => exact execPacketSent_lawfully h
  | acquire => exact execAcquire_lawfully h
  | join => exact execJoin_lawfully h
  | renew => exact execRenew_lawfully h
  | release => exact execRelease_lawfully h
  | convert => exact execConvert_lawfully h
  | cancel => exact execCancel_lawfully h
  | lookup => exact execLookup_lawfully h
  | malformedCommand => exact execMalformedCommand_lawfully h
  | waitDeadlineExpiry p tag => exact execWaitDeadlineExpiry_lawfully h
  | holderExpiry n p => exact execHolderExpiry_lawfully h
  | noticeDeadline n => exact execNoticeDeadline_lawfully h
  | readTaking => exact execReadTaking_lawfully h
  | writeTaking => exact execWriteTaking_lawfully h
  | readCompletion slot poolError => exact execReadCompletion_lawfully h
  | writeCompletion slot => exact execWriteCompletion_lawfully h
  | zeroFillCompletion => exact execZeroFillCompletion_lawfully h
  | ackTimerExpiry p => exact execAckTimerExpiry_lawfully h
  | badFrame l => exact execBadFrame_lawfully h
  | badCommand l => exact execBadCommand_lawfully h
  | identify => exact report_lawfully (show execIdentify s = .next t from h)
  | status => exact report_lawfully (show execStatus s = .next t from h)
  | alertRead => exact report_lawfully (show execAlertRead s = .next t from h)
  | waitRead => exact report_lawfully (show execWaitRead s = .next t from h)
  | scrubRead => exact report_lawfully (show execScrubRead s = .next t from h)
  | alertClear causes => exact execAlertClear_lawfully h
  | alertMask mask => exact execAlertMask_lawfully h
  | portStatus port => exact execPortStatus_lawfully h
  | refusalClear port => exact execRefusalClear_lawfully h
  | portReset port => exact execPortReset_lawfully h
  | leaseRead index => exact execLeaseRead_lawfully h
  | leaseNext granule => exact execLeaseNext_lawfully h
  | forceRevoke hd grace => exact execForceRevoke_lawfully h
  | deviceReset => exact execDeviceReset_lawfully h
  | fieldRead x => exact execFieldRead_lawfully h
  | fieldWrite x value => exact execFieldWrite_lawfully h
  | profileSave slot => exact execProfileSave_lawfully h
  | profileLoad slot => exact execProfileLoad_lawfully h
  | bootSelect slot => exact execBootSelect_lawfully h
  | nvOperationComplete agrees => exact execNvOperationComplete_lawfully h
  | powerOnReset => exact execPowerOnReset_lawfully h
  | resetAssert => exact execResetAssert_lawfully h
  | resetRelease => exact execResetRelease_lawfully h
  | becomeReady => exact execBecomeReady_lawfully h
  | leaseClockTick => exact execLeaseClockTick_lawfully h

theorem step_lawfully {s t : State} (h : step s = .next t) : s.Lawfully t := by
  unfold step at h
  split at h
  · rw [next_inj h]; exact .refl s
  · next c rest _ =>
    have hrest : s.Lawfully { s with pending := rest } := .of_fields rfl rfl rfl rfl rfl rfl rfl rfl rfl rfl
    exact hrest.trans (exec_lawfully h)

/-- Settles O58: every event keeps the laws together, the law of links as a premise of the ports' (`State.Sound`). -/
theorem stepKeepsPortLaw : Obligations.StepKeepsPortLaw := by
  intro s t hlink hport h
  have hlaw := step_lawfully h
  have hs : s.Sound := ⟨hlink, hport⟩
  exact ⟨(hlaw.st.sound hs).port, hlaw.st.holder hs, hlaw.readTag hs, hlaw.st.holdings hs⟩

/-- Settles O60: the law of links is kept with the ports' (`State.Sound`), the others each by itself. -/
theorem stepKeepsEngineLinksAndClock : Obligations.StepKeepsEngineLinksAndClock := by
  intro s t h
  have hlaw := step_lawfully h
  exact ⟨hlaw.engine, fun hport hlink => (hlaw.st.sound ⟨hlink, hport⟩).link, hlaw.st.clock, hlaw.st.pool⟩

end Sys2Proof.Machine
end

section
/-! The laws at reset, readiness and the lease clock. -/

namespace Sys2Proof.Machine

open Sys2Proof.Safety

/-! ## Right after reset -/

theorem State.reset_lease (i : RecordIndex) : State.reset.lease i = emptyRecord 0 := by
  simp [State.lease, State.reset]

theorem State.reset_port (p : Port) : State.reset.port p = powerOnPort := by
  simp [State.port, State.reset]

theorem State.reset_slot (n : HostSlotNumber) : State.reset.slot n = none := slot_of_replicate rfl n

theorem State.reset_wasReset : State.reset.WasReset where
  ports p := by
    rw [State.reset_port]
    exact ⟨rfl, rfl, rfl, ⟨rfl, rfl, rfl, rfl, rfl, rfl⟩⟩
  waitQueue := rfl
  slots := State.reset_slot
  leases i := by
    rw [State.reset_lease]
    exact LeaseRecord.fresh_emptyRecord 0
  clock := rfl
  scrubSlot := rfl

theorem State.reset_not_ready : State.reset.phase ≠ .ready := by simp [State.reset]

theorem State.reset_not_live (i : RecordIndex) : (State.reset.lease i).live = false := by
  rw [State.reset_lease]
  rfl

theorem capacities_reset : Capacities State.reset := by
  intro p
  rw [State.reset_port]
  simp [powerOnPort, emptyUnit]

theorem slotsNaming_reset (i : RecordIndex) : slotsNaming State.reset i = 0 := by
  have hslots : State.reset.hostSlots.toList.filterMap id = [] := by
    simp [State.reset]
  unfold slotsNaming
  rw [hslots]
  rfl

theorem drainLaw_reset : DrainLaw State.reset := by
  refine ⟨fun i => ?_, fun i _ => ?_, List.nodup_nil, fun i hi => nomatch hi⟩
  · rw [slotsNaming_reset, State.reset_lease]; rfl
  · rw [State.reset_lease]; rfl

theorem exclusion_reset : Exclusion State.reset := by
  have hdead : ∀ i, ¬ (State.reset.lease i).live = true := fun i => by simp [State.reset_not_live i]
  exact ⟨fun _ i => by rw [State.reset_lease]; rfl, fun i _ _ hl => absurd hl (hdead i),
    fun i hl => absurd hl (hdead i),
    List.pairwise_singleton _ _, by simp [State.reset], ⟨List.nodup_nil, fun i hi => nomatch hi⟩,
    fun i hl => absurd hl (hdead i)⟩

/-- Settles O55: the reset state is that of a part right after a reset, and its values are written in its
definition. -/
theorem lawsHoldAtReset : Obligations.LawsHoldAtReset := by
  have h := State.reset_wasReset
  have hn := State.reset_not_ready
  refine ⟨capacities_reset, drainLaw_reset, h.portLaw, fun i => (h.leases i).lawful, h.readTagLaw,
    ⟨factoryProfile_inRange, fun p => (h.leasesHeld p).trans_le (Nat.zero_le _)⟩, exclusion_reset, h.scrubEngineLaw hn,
    h.linkLaw hn, fun _ => h.clock, State.reset_pool_wf, rfl, rfl, State.reset_lease, rfl, fun p => ?_, rfl, rfl, rfl,
    State.reset_slot, rfl, rfl, rfl, by decide, by decide, rfl, rfl, by decide, rfl, rfl, rfl, rfl, rfl⟩
  rw [State.reset_port]
  simp [afterPowerOn, State.port, powerOnPort, emptyUnit]

/-! ## Readiness and the lease clock -/

theorem AlertCause.bit_lt (c : AlertCause) : c.bit < 12 := by
  cases c <;> simp only [AlertCause.bit] <;> omega

theorem AlertCause.bit_inj {c d : AlertCause} : c.bit = d.bit ↔ c = d := by
  refine ⟨fun h => ?_, congrArg _⟩
  cases c <;> cases d <;> simp only [AlertCause.bit] at h <;> grind

theorem State.hasAlert_setAlert (s : State) (c d : AlertCause) :
    (s.setAlert d).hasAlert c = (s.hasAlert c || decide (c = d)) := by
  rw [State.hasAlert, State.setAlert, getLsbD_addMember _ _ _ c.bit_lt]
  simp only [AlertCause.bit_inj, State.hasAlert]

/-- Alerts set one after the other, those whose condition holds. -/
theorem State.hasAlert_foldl_setAlert {α : Type} (f : α → Bool) (g : α → AlertCause) (l : List α) (s : State)
    (c : AlertCause) :
    (l.foldl (fun t a => if f a then t.setAlert (g a) else t) s).hasAlert c =
      (s.hasAlert c || l.any (fun a => f a && decide (c = g a))) := by
  induction l generalizing s with
  | nil => simp
  | cons a l ih =>
    rw [List.foldl_cons, ih, List.any_cons]
    cases f a <;> simp [State.hasAlert_setAlert, Bool.or_assoc]

/-- Readiness after power-on sets PORT_LINK of the ports whose link is up (R152). -/
theorem State.hasAlert_linkAlerts (s : State) (c : AlertCause) :
    s.linkAlerts.hasAlert c = (s.hasAlert c || match c with
      | .portLink p => (s.port p).lineUp
      | .portFenced _ | .damage | .profileFault | .nvDone | .nvFailed => false) := by
  rw [State.linkAlerts, State.hasAlert_foldl_setAlert (fun p => (s.port p).lineUp) AlertCause.portLink]
  cases c with
  | portLink p =>
    congr 1
    rw [Bool.eq_iff_iff]
    simp
  | _ => simp

/-- Settles O54: the ports by `PortRecord.place`, the alerts by `State.hasAlert_linkAlerts`. -/
theorem readinessAndLeaseClock : Obligations.ReadinessAndLeaseClock := by
  refine ⟨fun s => ⟨fun hr => ?_, fun hr => ?_⟩, fun s powerOn hp => ?_⟩
  · exact if_pos hr
  · exact if_neg hr
  · have hexec : exec .becomeReady s = .next
        (if powerOn then State.linkAlerts { s with phase := .ready, ports := mapVector PortRecord.place s.ports }
          else { s with phase := .ready, ports := mapVector PortRecord.place s.ports }).issueZeroFill := by
      show execBecomeReady s = _
      unfold execBecomeReady
      rw [hp]
    have hplace : ∀ p, (s.port p).place.lineUp = (s.port p).lineUp := fun p => by
      unfold PortRecord.place; split <;> rfl
    refine ⟨_, hexec, ?_⟩
    rw [State.issueZeroFill_eq]
    cases powerOn with
    | false =>
      exact ⟨rfl, rfl, fun p => s.port_placed p, fun c => by simp [State.hasAlert], rfl, rfl, rfl, rfl, rfl, rfl, rfl⟩
    | true =>
      have halert := State.hasAlert_linkAlerts { s with phase := .ready, ports := mapVector PortRecord.place s.ports }
      simp only [State.port_placed, hplace] at halert
      rw [State.linkAlerts_eq]
      refine ⟨rfl, rfl, fun p => s.port_placed p, fun c => ?_, rfl, rfl, rfl, rfl, rfl, rfl, rfl⟩
      exact halert c

end Sys2Proof.Machine
end

section
/-! The outcomes of ACQUIRE and CONVERT (Chapter 3) and of a holder's expiry (R23): a row's action goes through the
checks of the statement in their order, so the first that fails gives its answer. -/

namespace Sys2Proof.Machine

open Sys2Proof.Safety

/-! ## Answers -/

theorem firstFailure_nil_elim {α β : Type} (d : β) (f : α → β) :
    (firstFailure ([] : List (Bool × α))).elim d f = d := rfl

theorem firstFailure_cons_elim {α β : Type} (failed : Bool) (a : α) (l : List (Bool × α)) (d : β) (f : α → β) :
    (firstFailure ((failed, a) :: l)).elim d f = if failed = true then f a else (firstFailure l).elim d f := by
  cases failed <;> rfl

/-- An answer with room in the list is the packet at its end, and nothing else is due. -/
theorem Work.settle_respond {u : State} {p : Port} (tag : CommandTag) (a : Answer) (h : Room u p 1) :
    ((Work.start u).respond p tag a).settle = queued u p [.response tag a] := by
  rw [Work.respond, Work.send_of_room _ _ _ (by simpa using h)]
  exact Work.settle_quiet _

theorem room_commandTaken {s : State} {p : Port} {n : Nat} (h : Room s p n) : Room (s.commandTaken p) p n := by
  simpa [Room] using h

/-! ## The tests that the checks share -/

theorem State.termAllowed_eq (s : State) (p : Port) (term : Nat) :
    s.termAllowed p term = !termFails (s.policy p) term := by
  rw [Bool.eq_iff_iff]
  simp only [State.termAllowed, termFails, Bool.and_eq_true, Bool.or_eq_true, decide_eq_true_eq, Bool.not_eq_true',
    decide_eq_false_iff_not, not_or, not_and, not_lt]
  grind

theorem State.withinReach_eq (s : State) (p : Port) (e : Extent) :
    s.withinReach p e = !reachFails (s.policy p) e := by
  rw [Bool.eq_iff_iff]
  simp only [State.withinReach, reachFails, Extent.last, Bool.not_eq_true', decide_eq_false_iff_not, not_or, not_lt]
  exact decide_eq_true_iff

theorem State.quotaAllows_eq (s : State) (p : Port) (count : Nat) :
    s.quotaAllows p count = !quotaFails s p (s.policy p) count := by
  rw [Bool.eq_iff_iff]
  simp only [State.quotaAllows, quotaFails, decide_eq_true_eq, Bool.not_eq_true', decide_eq_false_iff_not, not_or,
    not_lt]

theorem State.resolves_eq (s : State) (h : Handle) : s.resolves h = !staleFails s h := by
  rw [Bool.eq_iff_iff]
  simp [State.resolves, staleFails, LeaseRecord.live]

/-! ## ACQUIRE (R47) -/

/-- The kinds that an ACQUIRE may name. -/
theorem acquireKind_eq (kind : Byte) : acquireKind kind =
    if kind ≠ 1 ∧ kind ≠ 2 then none else some (if kind = 1 then .exclusive else .shared) := by
  have h1 : kind = 1 ↔ kind.toNat = 1 := by bv_omega
  have h2 : kind = 2 ↔ kind.toNat = 2 := by bv_omega
  unfold acquireKind
  split <;> simp_all

/-- What an ACQUIRE does that passes its checks. -/
def acquirePassed (p : Port) (tag : CommandTag) (k : AcquireKind) (e : Extent) (term maxWait : Nat) (w : Work) :
    Work :=
  if w.st.conflicts k e || blocked w.st.waitQueue e then notGrantable p tag k e term maxWait w
  else
    match w.st.lowestFree with
    | none => notGrantable p tag k e term maxWait w
    | some i => w.grant i p tag k e term

/-- An ACQUIRE is answered by the first check it fails. -/
theorem acquire_eq (p : Port) (tag : CommandTag) (kind : Byte) (e : Extent) (term maxWait : Nat) (w : Work) :
    acquire p tag kind e term maxWait w =
      (firstFailure (acquireChecks w.st p kind e term maxWait)).elim
        (acquirePassed p tag (if kind = 1 then .exclusive else .shared) e term maxWait w) (w.respond p tag) := by
  have hpool : e.inPool w.st.geometry.poolGranules = false ↔
      e.count = 0 ∨ w.st.geometry.poolGranules < e.base + e.count := by
    simp [Extent.inPool]; omega
  simp only [acquire, acquireKind_eq, acquireChecks, firstFailure_cons_elim, firstFailure_nil_elim,
    State.termAllowed_eq, State.withinReach_eq, State.quotaAllows_eq, hpool, decide_eq_true_eq, Bool.not_eq_false']
  by_cases hk : kind ≠ 1 ∧ kind ≠ 2
  · rw [if_pos hk, if_pos hk]
  · rw [if_neg hk, if_neg hk]
    unfold acquirePassed
    grind

theorem execAcquire_free {s : State} {p : Port} {tag : CommandTag} {kind : Byte} {b : BitVec 16} {n : BitVec 24}
    {t m : BitVec 16} (h : NextWithFreeTag s p tag (.acquire kind b n t m)) :
    exec .acquire s = .next
      (acquire p tag kind ⟨b.toNat, n.toNat⟩ t.toNat m.toNat (.start (s.commandTaken p))).settle :=
  takeCommand_free (act := fun p tag c => match c with
    | .acquire k b n t m => some (acquire p tag k ⟨b.toNat, n.toNat⟩ t.toNat m.toNat)
    | .join _ _ | .renew _ _ | .release _ | .convert _ | .cancel _ | .lookup _ | .unknown _ _ => none) h.1 rfl h.2

/-- The checks look at nothing that the taking of the command changes. -/
theorem acquireChecks_commandTaken (s : State) (p : Port) (kind : Byte) (e : Extent) (term maxWait : Nat) :
    acquireChecks (s.commandTaken p) p kind e term maxWait = acquireChecks s p kind e term maxWait := rfl

/-- Settles O15: the holdings are their definition, and `acquire_eq` gives the answer of the first failed check. -/
theorem acquireRefused : Obligations.AcquireRefused := by
  refine ⟨fun s p l hl => ?_, fun s p tag kind b n t m a hnext hroom hfail => ?_⟩
  · subst hl; exact ⟨rfl, rfl⟩
  · rw [execAcquire_free hnext, acquire_eq, Work.start_st, acquireChecks_commandTaken, hfail]
    exact congrArg _ (Work.settle_respond tag a (room_commandTaken hroom))

theorem State.lowestFree_eq_some {s : State} {i : RecordIndex} (hi : (s.lease i).state = .free)
    (hlow : ∀ j, j < i → (s.lease j).state ≠ .free) : s.lowestFree = some i := by
  refine List.find?_eq_some_iff_getElem.2 ⟨by simpa using hi, i.val, by simp, by simp, fun j hj => ?_⟩
  simpa using hlow ⟨j, by omega⟩ hj

/-- A grant to a port with room for its answer is the record with the lease and the answer in the list. -/
theorem Work.settle_grant {u : State} {i : RecordIndex} {p : Port} (tag : CommandTag) (k : AcquireKind) (e : Extent)
    (term : Nat) (h : Room u p 1) :
    ((Work.start u).grant i p tag k e term).settle =
      queued (u.setLease i (u.grantedRecord i p k e term)) p
        [.response tag (.granted ⟨i, (u.lease i).generation + 1⟩ (u.holderDeadline term))] := by
  have hhandle : (u.setLease i (u.grantedRecord i p k e term)).handleOf i = ⟨i, (u.lease i).generation + 1⟩ := by
    rw [State.handleOf, State.lease_setLease, if_pos rfl]; rfl
  rw [← hhandle]
  exact Work.settle_respond (u := u.setLease i (u.grantedRecord i p k e term)) tag _ h

theorem State.holderDeadline_toNat (s : State) (t : BitVec 16) :
    s.holderDeadline t.toNat = if t = 0 then none else some (s.clock + BitVec.ofNat 32 t.toNat) :=
  if_congr (by bv_omega) rfl rfl

/-- Settles O16: the grant of `Work.settle_grant` in the lowest-index FREE record. -/
theorem acquireGranted : Obligations.AcquireGranted := by
  refine ⟨fun s i r => ⟨rfl, rfl, fun j => ?_⟩, ?_⟩
  · rw [State.lease_setLease]
    exact if_congr eq_comm rfl rfl
  intro s p tag kind b n t m i d hnext hroom hpass hconf hblock hfree hlow hd
  have hlowest : (s.commandTaken p).lowestFree = some i := State.lowestFree_eq_some hfree hlow
  have hpassed : ∀ k e term maxWait, s.conflicts k e = false → blocked s.waitQueue e = false →
      acquirePassed p tag k e term maxWait (.start (s.commandTaken p)) =
        (Work.start (s.commandTaken p)).grant i p tag k e term := fun k e term maxWait hc hb => by
    have hc' : (s.commandTaken p).conflicts k e = false := hc
    simp [acquirePassed, hlowest, hc', hb]
  rw [execAcquire_free hnext, acquire_eq, Work.start_st, acquireChecks_commandTaken, hpass, Option.elim_none,
    hpassed _ _ _ _ hconf hblock, Work.settle_grant _ _ _ _ (room_commandTaken hroom), hd, State.holderDeadline_toNat]
  by_cases hk : kind = 1
  · simp only [State.grantedRecord, State.holderDeadline_toNat, if_pos hk, decide_eq_true hk]; rfl
  · simp only [State.grantedRecord, State.holderDeadline_toNat, if_neg hk, decide_eq_false hk]; rfl

/-! ## CONVERT (R50, R57) -/

/-- A CONVERT is answered by the first check it fails. -/
theorem convert_eq (p : Port) (tag : CommandTag) (h : Handle) (w : Work) :
    convert p tag h w = (firstFailure (convertChecks w.st p h)).elim
      ((w.onState (fun s => s.setLease h.index (s.lease h.index).converted)).respond p tag .ok) (w.respond p tag) := by
  simp only [convert, convertChecks, firstFailure_cons_elim, firstFailure_nil_elim, State.resolves_eq,
    decide_eq_true_eq, Bool.not_eq_false', Bool.not_eq_true']

theorem convertChecks_commandTaken (s : State) (p : Port) (h : Handle) :
    convertChecks (s.commandTaken p) p h = convertChecks s p h := rfl

theorem execConvert_free {s : State} {p : Port} {tag : CommandTag} {h : Handle}
    (hnext : NextWithFreeTag s p tag (.convert h)) :
    exec .convert s = .next (convert p tag h (.start (s.commandTaken p))).settle :=
  takeCommand_free (act := fun p tag c => match c with
    | .convert h => some (convert p tag h)
    | .acquire _ _ _ _ _ | .join _ _ | .renew _ _ | .release _ | .cancel _ | .lookup _ | .unknown _ _ => none)
    hnext.1 rfl hnext.2

/-- Settles O21: `convert_eq`, with the record of `LeaseRecord.converted` when every check passes. -/
theorem convertOutcome : Obligations.ConvertOutcome := by
  refine fun s p tag h hnext hroom => ⟨fun a hfail => ?_, fun hpass => ?_⟩
  · rw [execConvert_free hnext, convert_eq, Work.start_st, convertChecks_commandTaken, hfail]
    exact congrArg _ (Work.settle_respond tag a (room_commandTaken hroom))
  · rw [execConvert_free hnext, convert_eq, Work.start_st, convertChecks_commandTaken, hpass]
    exact congrArg _ (Work.settle_respond
      (u := (s.commandTaken p).setLease h.index (s.lease h.index).converted) tag .ok (room_commandTaken hroom))

/-! ## The expiry of a holder (R23) -/

theorem State.needsScrub_eq (s : State) (r : LeaseRecord) : s.needsScrub r = scrubNeeded s r := by
  unfold State.needsScrub scrubNeeded
  cases r.standing <;> simp

/-- An extent that joins the scrub queue, with the zero-fill of its first granule where the engine leaves IDLE (R94). -/
theorem State.joinScrubQueue_eq (s : State) (e : Extent) : s.joinScrubQueue e =
    { s with
      scrubQueue := s.scrubQueue ++ [e]
      scrubSlot :=
        if s.scrubQueue = [] ∧ s.phase = .ready ∧ s.scrubSlot = none then some e.base else s.scrubSlot } := by
  unfold State.joinScrubQueue
  split
  · next h => rw [State.issueZeroFill_eq, h.1]; rfl
  · rfl

/-- The retirement step at the beginning of an event is the one of the statements (R86 to R88). -/
theorem Work.retire_start (s : State) (i : RecordIndex) : (Work.start s).retire i = retirement s i := by
  have hneeds := s.needsScrub_eq (s.lease i)
  unfold retirement
  rcases (Work.start s).retire_cases i with ⟨hn, h⟩ | ⟨hn, hlen, h⟩ | ⟨hn, hlen, h⟩ <;>
    rw [Work.start_st, hneeds] at hn
  · rw [if_pos hn, h]; rfl
  · rw [if_neg (by simp [hn]), if_pos (by simpa using hlen), h]
    exact congrArg (fun u => Work.mk u [] [] true) (State.joinScrubQueue_eq _ _)
  · rw [if_neg (by simp [hn]), if_neg (by simpa using hlen), h]; rfl

/-- So is the entry to DRAINING (R84). -/
theorem Work.drain_start (s : State) (i : RecordIndex) (c : RevokeCause) :
    (Work.start s).drain i c = drained s i c := by
  obtain ⟨w', hw', ⟨h, hcount⟩ | ⟨h, hcount⟩⟩ := (Work.start s).drain_cases i c <;>
    rw [h, hw', drained]
  · exact (if_neg hcount).symm
  · exact (Work.retire_start _ i).trans (if_pos hcount).symm

/-- A holder's removal at the beginning of an event: the lease keeps its state while another holder is left, and is
drained when none is (R75). -/
theorem Work.removeHolder_start (s : State) (i : RecordIndex) (p : Port) (c : RevokeCause) :
    (Work.start s).removeHolder i p c =
      if ((s.lease i).withoutHolder p).holders = [] then drained s i c
      else .start (s.setLease i ((s.lease i).withoutHolder p)) := by
  obtain ⟨w', hw', ⟨hne, h⟩ | ⟨hnil, h⟩⟩ := (Work.start s).removeHolder_cases i p c
  · rw [h, hw', if_neg (by simpa [hw'] using hne)]; rfl
  · rw [h, hw', if_pos (by simpa [hw'] using hnil)]
    exact (Work.drain_setHolders (.start s) i _ c).trans (Work.drain_start s i c)

/-- A holder's deadline that is reached in ACTIVE or NOTICE makes it expire. -/
theorem execHolderExpiry_reached {s : State} {i : RecordIndex} {h : Holder} {d : ClockValue}
    (hstate : (s.lease i).state = .active ∨ (s.lease i).state = .notice)
    (hholder : (s.lease i).holderOf h.port = some h) (hd : h.deadline = some d) (hreached : (s.clock - d).toNat < 2 ^ 31) :
    exec (.holderExpiry i h.port) s = .next (expireHolder i h.port (.start s)).settle := by
  show execHolderExpiry i h.port s = _
  have hforce : ¬ (s.lease i).inForce = false := by simp [LeaseRecord.inForce, hstate]
  have hd' : ((s.lease i).holderOf h.port).bind (fun h => h.deadline) = some d := by rw [hholder]; exact hd
  have hr : s.reached d = true := decide_eq_true hreached
  unfold execHolderExpiry
  rw [if_neg hforce, hd']
  exact if_pos hr

/-- Settles O28: the removal of the holder by `Work.removeHolder_start`, and EXPIRED after it. -/
theorem holderExpiryOutcome : Obligations.HolderExpiryOutcome := by
  intro s i h d others hstate hholder hd hreached hothers
  have hleft : ((s.lease i).withoutHolder h.port).holders = others := hothers.symm
  rw [execHolderExpiry_reached hstate hholder hd hreached, expireHolder, Work.removeHolder_start, hleft]
  refine ⟨fun hne => ?_, fun hnil => ?_⟩
  · rw [if_neg hne, LeaseRecord.withoutHolder, ← hothers]; rfl
  · rw [if_pos hnil]; rfl

end Sys2Proof.Machine
end

section
/-! Validation and instantiation of the captured standing set, entry by entry (R18, R159, R160). -/

namespace Sys2Proof.Machine

open Sys2Proof.Safety

/-! ## Where accepted entries go -/

/-- How many of the entries before place `k` are accepted (R160). -/
def State.acceptedUpTo (s : State) (k : Nat) : Nat :=
  (Finset.univ.filter (fun m : EntryNumber => m.val < k ∧ s.verdictOn m = .accepted)).card

/-- The record that an accepted entry is instantiated into. -/
def State.recordFor (s : State) (n : EntryNumber) : RecordIndex := Fin.ofNat 256 (s.acceptedUpTo n.val)

theorem State.acceptedUpTo_le (s : State) (k : Nat) : s.acceptedUpTo k ≤ 16 :=
  (Finset.card_le_univ _).trans_eq (by simp)

theorem State.recordFor_val (s : State) (n : EntryNumber) : (s.recordFor n).val = s.acceptedUpTo n.val := by
  have := s.acceptedUpTo_le n.val
  simp only [State.recordFor, Fin.val_ofNat]
  omega

theorem State.acceptedUpTo_zero (s : State) : s.acceptedUpTo 0 = 0 := by simp [State.acceptedUpTo]

theorem State.acceptedUpTo_succ (s : State) (n : EntryNumber) :
    s.acceptedUpTo (n.val + 1) = s.acceptedUpTo n.val + if s.verdictOn n = .accepted then 1 else 0 := by
  unfold State.acceptedUpTo
  split
  · next hn =>
    rw [← Finset.card_insert_of_notMem (a := n) (by simp)]
    refine congrArg Finset.card (Finset.ext fun m => ?_)
    have : m.val < n.val + 1 ↔ m = n ∨ m.val < n.val := by rw [Fin.ext_iff]; omega
    grind
  · next hn =>
    refine Eq.trans ?_ (Nat.add_zero _).symm
    refine congrArg Finset.card (Finset.ext fun m => ?_)
    have : m.val < n.val + 1 ↔ m = n ∨ m.val < n.val := by rw [Fin.ext_iff]; omega
    grind

/-- Two accepted entries never go to one record. -/
theorem State.acceptedUpTo_lt {s : State} {n : EntryNumber} {k : Nat} (hn : n.val < k)
    (ha : s.verdictOn n = .accepted) : s.acceptedUpTo n.val < s.acceptedUpTo k := by
  refine Finset.card_lt_card (Finset.ssubset_iff_of_subset ?_ |>.2 ⟨n, by simp [hn, ha], by simp⟩)
  intro m
  simp only [Finset.mem_filter, Finset.mem_univ, true_and]
  exact fun ⟨hm, hv⟩ => ⟨hm.trans hn, hv⟩

/-- Every record below the next one is that of an earlier accepted entry. -/
theorem State.exists_of_lt_acceptedUpTo (s : State) (j : Nat) : ∀ k ≤ 16, j < s.acceptedUpTo k →
    ∃ n : EntryNumber, n.val < k ∧ s.verdictOn n = .accepted ∧ s.acceptedUpTo n.val = j := by
  intro k
  induction k with
  | zero => intro _ h; rw [State.acceptedUpTo_zero] at h; omega
  | succ k ih =>
    intro hk h
    by_cases hj : j < s.acceptedUpTo k
    · obtain ⟨n, hn, hv, he⟩ := ih (by omega) hj
      exact ⟨n, by omega, hv, he⟩
    · have hsucc := s.acceptedUpTo_succ ⟨k, hk⟩
      split at hsucc
      · next ha => exact ⟨⟨k, hk⟩, by simp, ha, by simp at hsucc ⊢; omega⟩
      · simp at hsucc; omega

/-! ## The outcome of an entry -/

/-- The outcome that a verdict leaves in the report, of an entry that would go to this record. -/
def EntryVerdict.outcome (v : EntryVerdict) (i : RecordIndex) : EntryOutcome :=
  match v with
  | .unused => .unused
  | .zeroCount => .zeroCount
  | .beyondPool => .beyondPool
  | .noHolder => .noHolder
  | .sharedWriter => .sharedWriter
  | .overlap => .overlap
  | .accepted => .accepted i

/-- The verdict skips its entry (R159). -/
def EntryVerdict.skips (v : EntryVerdict) : Bool := decide (v ≠ .unused ∧ v ≠ .accepted)

theorem EntryVerdict.isAccepted_outcome (v : EntryVerdict) (i : RecordIndex) :
    isAccepted (v.outcome i) = decide (v = .accepted) := by cases v <;> rfl

theorem EntryVerdict.isSkipped_outcome (v : EntryVerdict) (i : RecordIndex) : isSkipped (v.outcome i) = v.skips := by
  cases v <;> rfl

theorem EntryVerdict.outcome_eq_accepted {v : EntryVerdict} {i j : RecordIndex} :
    v.outcome i = .accepted j ↔ v = .accepted ∧ i = j := by cases v <;> simp [EntryVerdict.outcome]

theorem State.settleEntry_accepted {s : State} {i : RecordIndex} (n : EntryNumber) (h : s.lowestFree = some i) :
    s.settleEntry n .accepted =
      (s.setLease i (s.standingRecord i n s.standingSet[n])).noteOutcome n (.accepted i) := by
  simp only [State.settleEntry, h]

theorem State.settleEntry_not_accepted (s : State) (n : EntryNumber) {v : EntryVerdict} (i : RecordIndex)
    (h : v ≠ .accepted) : s.settleEntry n v =
      if v.skips then (s.noteOutcome n (v.outcome i)).setAlert .profileFault else s.noteOutcome n (v.outcome i) := by
  cases v with
  | accepted => exact absurd rfl h
  | _ => rfl

theorem State.outcomes_noteOutcome (s : State) (n m : EntryNumber) (o : EntryOutcome) :
    (s.noteOutcome n o).report.outcomes[m] = if n = m then o else s.report.outcomes[m] := by
  simp [State.noteOutcome, Vector.getElem_set, Fin.ext_iff]

/-! ## What has been made so far -/

/-- The entries before place `k` have been acted on. -/
structure State.Instantiated (s : State) (k : Nat) (u : State) : Prop where
  only : s.OnlyStanding u
  outcomes : ∀ n : EntryNumber, n.val < k → u.report.outcomes[n] = (s.verdictOn n).outcome (s.recordFor n)
  placed : ∀ n : EntryNumber, n.val < k → s.verdictOn n = .accepted →
    u.lease (s.recordFor n) = s.standingRecord (s.recordFor n) n s.standingSet[n]
  others : ∀ i, (∀ n : EntryNumber, n.val < k → s.verdictOn n = .accepted → s.recordFor n ≠ i) → u.lease i = s.lease i
  alerts : ∀ c, u.hasAlert c = true ↔
    s.hasAlert c = true ∨ (c = .profileFault ∧ ∃ n : EntryNumber, n.val < k ∧ (s.verdictOn n).skips = true)

theorem State.instantiated_zero (s : State) : s.Instantiated 0 s :=
  ⟨.refl s, fun n hn => absurd hn (Nat.not_lt_zero _), fun n hn => absurd hn (Nat.not_lt_zero _), fun _ _ => rfl,
    fun c => by simp⟩

/-- The record for an accepted entry is the lowest FREE one when its turn comes (R160). -/
theorem State.Instantiated.lowestFree {s u : State} {n : EntryNumber} (h : s.Instantiated n.val u)
    (hfree : ∀ i, (s.lease i).state = .free) : u.lowestFree = some (s.recordFor n) := by
  refine State.lowestFree_eq_some ?_ fun j hj => ?_
  · rw [h.others]
    · exact hfree _
    · intro m hm ha he
      have := State.acceptedUpTo_lt hm ha
      rw [← s.recordFor_val m, he, s.recordFor_val] at this
      exact absurd this (lt_irrefl _)
  · rw [Fin.lt_def, s.recordFor_val] at hj
    obtain ⟨m, hm, ha, he⟩ := s.exists_of_lt_acceptedUpTo j.val n.val n.isLt.le hj
    have hrec : s.recordFor m = j := Fin.ext ((s.recordFor_val m).trans he)
    rw [← hrec, h.placed m hm ha]
    simp [State.standingRecord]

theorem lt_succ_iff_eq_or_lt {m n : EntryNumber} : m.val < n.val + 1 ↔ m = n ∨ m.val < n.val := by
  rw [Fin.ext_iff]; omega

/-- One entry more, accepted. -/
theorem State.Instantiated.accept {s u : State} {n : EntryNumber} (h : s.Instantiated n.val u)
    (hfree : ∀ i, (s.lease i).state = .free) (ha : s.verdictOn n = .accepted) :
    s.Instantiated (n.val + 1) (u.settleEntry n .accepted) := by
  have hlow := h.lowestFree hfree
  have hother : ∀ m : EntryNumber, m.val < n.val → s.verdictOn m = .accepted → s.recordFor m ≠ s.recordFor n := by
    intro m hm hv he
    have := State.acceptedUpTo_lt hm hv
    rw [← s.recordFor_val, he, s.recordFor_val] at this
    exact absurd this (lt_irrefl _)
  have hown : u.lease (s.recordFor n) = s.lease (s.recordFor n) := h.others _ hother
  have hrecord : u.standingRecord (s.recordFor n) n u.standingSet[n] =
      s.standingRecord (s.recordFor n) n s.standingSet[n] := by
    rw [State.standingRecord, hown, h.only.standingSet_eq]; rfl
  have hlease : ∀ j, (u.settleEntry n .accepted).lease j =
      if s.recordFor n = j then s.standingRecord (s.recordFor n) n s.standingSet[n] else u.lease j := fun j => by
    rw [State.settleEntry_accepted n hlow, ← hrecord]
    exact State.lease_setLease u _ j _
  refine ⟨h.only.trans (u.settleEntry_only n _), fun m hm => ?_, fun m hm hv => ?_, fun i hi => ?_, fun c => ?_⟩
  · rw [State.settleEntry_accepted n hlow, State.outcomes_noteOutcome]
    split
    · next hnm => rw [← hnm, ha]; rfl
    · next hnm => exact h.outcomes m ((lt_succ_iff_eq_or_lt.1 hm).resolve_left (Ne.symm hnm))
  · rw [hlease]
    rcases lt_succ_iff_eq_or_lt.1 hm with rfl | hm
    · exact if_pos rfl
    · rw [if_neg (hother m hm hv).symm]
      exact h.placed m hm hv
  · rw [hlease, if_neg (hi n (Nat.lt_succ_self _) ha)]
    exact h.others i fun m hm => hi m (hm.trans (Nat.lt_succ_self _))
  · have hsame : (u.settleEntry n .accepted).hasAlert c = u.hasAlert c := by
      rw [State.settleEntry_accepted n hlow]; rfl
    rw [hsame, h.alerts]
    simp only [lt_succ_iff_eq_or_lt, or_and_right, exists_or, exists_eq_left, ha]
    simp [EntryVerdict.skips]

/-- One entry more, not accepted. -/
theorem State.Instantiated.pass {s u : State} {n : EntryNumber} (h : s.Instantiated n.val u)
    (hv : s.verdictOn n ≠ .accepted) : s.Instantiated (n.val + 1) (u.settleEntry n (s.verdictOn n)) := by
  have heq := u.settleEntry_not_accepted n (s.recordFor n) hv
  have hlease : ∀ j, (u.settleEntry n (s.verdictOn n)).lease j = u.lease j := fun j => by
    rw [heq]; split <;> rfl
  refine ⟨h.only.trans (u.settleEntry_only n _), fun m hm => ?_, fun m hm ha => ?_, fun i hi => ?_, fun c => ?_⟩
  · have hout : (u.settleEntry n (s.verdictOn n)).report.outcomes[m] =
        (u.noteOutcome n ((s.verdictOn n).outcome (s.recordFor n))).report.outcomes[m] := by
      rw [heq]; split <;> rfl
    rw [hout, State.outcomes_noteOutcome]
    split
    · next hnm => rw [← hnm]
    · next hnm => exact h.outcomes m ((lt_succ_iff_eq_or_lt.1 hm).resolve_left (Ne.symm hnm))
  · rcases lt_succ_iff_eq_or_lt.1 hm with rfl | hm
    · exact absurd ha hv
    · rw [hlease]; exact h.placed m hm ha
  · rw [hlease]
    exact h.others i fun m hm => hi m (hm.trans (Nat.lt_succ_self _))
  · have halert : (u.settleEntry n (s.verdictOn n)).hasAlert c =
        (u.hasAlert c || (decide (c = .profileFault) && (s.verdictOn n).skips)) := by
      rw [heq]
      cases (s.verdictOn n).skips
      · simp [State.noteOutcome, State.hasAlert]
      · rw [if_pos rfl, State.hasAlert_setAlert]
        simp [State.noteOutcome, State.hasAlert]
    rw [halert, Bool.or_eq_true, h.alerts]
    simp only [lt_succ_iff_eq_or_lt, or_and_right, exists_or, exists_eq_left, Bool.and_eq_true, decide_eq_true_eq]
    grind

theorem State.instantiate_instantiated {s : State} (hfree : ∀ i, (s.lease i).state = .free) :
    s.Instantiated 16 s.instantiate := by
  refine State.instantiate_by_entry s s.instantiated_zero fun n u h => ?_
  by_cases ha : s.verdictOn n = .accepted
  · rw [ha]; exact h.accept hfree ha
  · exact h.pass ha

/-! ## The outcome in the words of the tests (R159) -/

/-- The verdict on an entry, its last test against the entries before it that are accepted. -/
theorem State.verdictOn_tests (s : State) (n : EntryNumber) {e : StandingEntry} (he : e = s.standingSet[n]) :
    s.verdictOn n =
      if e.used = false then .unused
      else if e.count = 0 then .zeroCount
      else if s.geometry.poolGranules < e.base + e.count then .beyondPool
      else if ∀ p : Port, e.rights[p] = .none then .noHolder
      else if e.kind = .shared ∧ ∃ p : Port, e.rights[p] = .readWrite then .sharedWriter
      else if ∃ m : EntryNumber, m < n ∧ s.verdictOn m = .accepted ∧
          s.standingSet[m].extent.overlaps e.extent = true then .overlap
      else .accepted := by
  obtain ⟨before, hv, hmem⟩ := s.verdictOn_eq n
  have hover : before.any (fun x => x.overlaps e.extent) = true ↔
      ∃ m : EntryNumber, m < n ∧ s.verdictOn m = .accepted ∧ s.standingSet[m].extent.overlaps e.extent = true := by
    rw [List.any_eq_true]
    constructor
    · rintro ⟨x, hx, ho⟩
      obtain ⟨m, hm, ha, rfl⟩ := (hmem x).1 hx
      exact ⟨m, hm, ha, ho⟩
    · rintro ⟨m, hm, ha, ho⟩
      exact ⟨_, (hmem _).2 ⟨m, hm, ha, rfl⟩, ho⟩
  rw [hv, ← he, StandingEntry.verdict]
  simp only [hover, StandingEntry.all_none_iff, StandingEntry.mem_rights_iff]

theorem EntryVerdict.outcome_ite (c : Prop) [Decidable c] (x y : EntryVerdict) (i : RecordIndex) :
    (if c then x else y).outcome i = if c then x.outcome i else y.outcome i :=
  apply_ite (EntryVerdict.outcome · i) c x y

/-- The count of the statement is the one of the instantiation. -/
theorem acceptedBefore_eq {s t : State} (n : EntryNumber)
    (hout : ∀ m : EntryNumber, t.report.outcomes[m] = (s.verdictOn m).outcome (s.recordFor m)) :
    acceptedBefore t n = s.acceptedUpTo n.val := by
  unfold acceptedBefore State.acceptedUpTo
  rw [← List.toFinset_card_of_nodup ((List.nodup_finRange 16).filter _)]
  refine congrArg Finset.card (Finset.ext fun m => ?_)
  simp [hout, EntryVerdict.isAccepted_outcome]

/-- Settles O53, by the entries in order (`State.Instantiated`). -/
theorem standingLeasesInstantiated : Obligations.StandingLeasesInstantiated := by
  intro s t ht hfree
  have h : s.Instantiated 16 t := ht ▸ State.instantiate_instantiated hfree
  have hout : ∀ m : EntryNumber, t.report.outcomes[m] = (s.verdictOn m).outcome (s.recordFor m) :=
    fun m => h.outcomes m m.isLt
  refine ⟨fun n e he => ?_, fun n i e he hacc => ?_, fun i hi => ?_, fun c => ?_, h.only⟩
  · rw [hout, s.verdictOn_tests n he, acceptedBefore_eq n hout]
    simp only [hout, EntryVerdict.isAccepted_outcome, decide_eq_true_eq, EntryVerdict.outcome_ite]
    rfl
  · rw [hout, EntryVerdict.outcome_eq_accepted] at hacc
    obtain ⟨hv, rfl⟩ := hacc
    rw [h.placed n n.isLt hv, ← he, State.standingRecord]
    congr 1
    refine List.filterMap_congr fun p _ => ?_
    show (e.rights[p].holderRight.map fun r => (⟨p, r, 0, none⟩ : Holder)) = _
    cases e.rights[p] <;> rfl
  · exact h.others i fun n _ hv hn => hi n (by rw [hout, hv, hn]; rfl)
  · rw [h.alerts]
    simp only [hout, EntryVerdict.isSkipped_outcome]
    simp

end Sys2Proof.Machine
end

section
/-! Resets and start-up (Chapter 10): what the abandoned operations leave of the pool, and the states that the two
resets and the release of RESET# end in. -/

namespace Sys2Proof.Machine

open Sys2Proof.Safety

/-! ## The pool away from what is stored -/

theorem lookupKey_insertKey_of_ne {α : Type} {k j : Nat} (v : α) (l : List (Nat × α)) (h : j ≠ k) :
    lookupKey j (insertKey k v l) = lookupKey j l := by
  induction l with
  | nil => simp [insertKey, lookupKey, Ne.symm h]
  | cons c rest ih =>
    obtain ⟨i, w⟩ := c
    unfold insertKey
    split
    · simp [lookupKey, Ne.symm h]
    · split
      · next hik => subst hik; simp [lookupKey, Ne.symm h]
      · simp [lookupKey, ih]

theorem lookupKey_filter {α : Type} {j : Nat} (f : Nat × α → Bool) (l : List (Nat × α)) (h : ∀ v, f (j, v) = true) :
    lookupKey j (l.filter f) = lookupKey j l := by
  induction l with
  | nil => rfl
  | cons c rest ih =>
    obtain ⟨i, w⟩ := c
    rw [List.filter_cons]
    split
    · simp [lookupKey, ih]
    · next hf =>
      have hij : i ≠ j := fun hij => hf (hij ▸ h w)
      simp [lookupKey, ih, hij]

theorem Pool.readByte_writeByte_of_ne (m : Pool) {a j : Nat} (b : Byte) (h : j ≠ a) :
    (m.writeByte a b).readByte j = m.readByte j := by
  have hcells : lookupKey j (m.writeByte a b).cells = lookupKey j m.cells := by
    unfold Pool.writeByte
    split
    · exact (lookupKey_removeKey a j m.cells).trans (if_neg h)
    · exact lookupKey_insertKey_of_ne b m.cells h
  rw [Pool.readByte, Pool.readByte, hcells, Pool.unlisted_writeByte]

/-- Bytes stored leave every other byte. -/
theorem Pool.readByte_writeBytes_outside (bs : List Byte) (m : Pool) {a j : Nat} (h : j < a ∨ a + bs.length ≤ j) :
    (m.writeBytes a bs).readByte j = m.readByte j := by
  induction bs generalizing m a with
  | nil => rfl
  | cons b rest ih =>
    rw [List.length_cons] at h
    rw [Pool.writeBytes, ih (m.writeByte a b) (by omega), Pool.readByte_writeByte_of_ne m b (by omega)]

/-- Bytes stored are read back. -/
theorem Pool.readByte_writeBytes_inside (bs : List Byte) (m : Pool) (a : Nat) (hm : m.wf = true) {k : Nat}
    (h : k < bs.length) : (m.writeBytes a bs).readByte (a + k) = bs[k] := by
  induction bs generalizing m a k with
  | nil => exact absurd h (Nat.not_lt_zero k)
  | cons b rest ih =>
    rw [Pool.writeBytes]
    cases k with
    | zero =>
      rw [Pool.readByte_writeBytes_outside rest _ (by omega), Pool.readByte_writeByte m a _ b hm]
      exact if_pos rfl
    | succ k =>
      rw [show a + (k + 1) = a + 1 + k by omega, ih _ _ (Pool.writeByte_wf m a b hm) (by simpa using h)]
      rfl

/-- A granule given a background leaves every byte outside it. -/
theorem Pool.readByte_refill (m : Pool) {g j : Nat} (b : Background) (h : granuleOf j ≠ g) :
    (m.refill g b).readByte j = m.readByte j := by
  have hcells : lookupKey j (m.refill g b).cells = lookupKey j m.cells :=
    lookupKey_filter _ m.cells fun v => by simpa using h
  have hback : (m.refill g b).background (granuleOf j) = m.background (granuleOf j) := by
    have hlook : lookupKey (granuleOf j) (m.refill g b).backgrounds = lookupKey (granuleOf j) m.backgrounds := by
      unfold Pool.refill
      dsimp only
      split
      · exact (lookupKey_removeKey g _ m.backgrounds).trans (if_neg h)
      · exact lookupKey_insertKey_of_ne b m.backgrounds h
    rw [Pool.background, hlook]; rfl
  simp only [Pool.readByte, Pool.unlisted, hcells, hback]

/-! ## Abandoned operations (R102, R124) -/

/-- An abandoned operation changes the pool by the whole of its data or not at all. -/
theorem abandonOne_pool (s : State) (o : PoolOperation) : (abandonOne s o).pool = s.pool ∨
    ∃ a d, o.request = .write a d ∧ (abandonOne s o).pool = s.pool.writeBytes a.toNat d := by
  unfold abandonOne
  split
  · exact .inl rfl
  · next a d h =>
    dsimp only
    split
    · exact .inr ⟨a, d, h, rfl⟩
    · exact .inl rfl

theorem abandonOne_scrubSlot (s : State) (o : PoolOperation) : (abandonOne s o).scrubSlot = s.scrubSlot := by
  unfold abandonOne; split <;> rfl

theorem abandonOne_operations (s : State) (o : PoolOperation) : (abandonOne s o).operations = s.operations := by
  unfold abandonOne; split <;> rfl

/-- An abandoned zero-fill leaves every byte outside its granule. -/
theorem State.readByte_abandonZeroFill (s : State) {a : Nat} (h : s.scrubSlot ≠ some (a / 2 ^ 20)) :
    s.abandonZeroFill.pool.readByte a = s.pool.readByte a := by
  unfold State.abandonZeroFill
  split
  · rfl
  · next g hg => exact Pool.readByte_refill s.pool _ fun he => h (by rw [hg, ← he]; rfl)

theorem State.abandonZeroFill_operations (s : State) : s.abandonZeroFill.operations = s.operations := by
  unfold State.abandonZeroFill; split <;> rfl

/-- The WRITEs that have not been carried out are abandoned one after the other, and then the zero-fill. -/
theorem State.abandonOperations_eq (s : State) : ∃ order : List PoolOperation, ∃ n,
    (∀ o ∈ order, o ∈ s.operations ∧ o.carriedOut = none) ∧
    s.abandonOperations =
      (order.foldl abandonOne { s with choices := n, operations := [] }).abandonZeroFill := by
  refine ⟨_, _, fun o ho => ?_, rfl⟩
  have hleft := (anyOrder_perm _ _ _).mem_iff.1 ho
  simp only [List.mem_filter, Bool.and_eq_true, Option.isNone_iff_eq_none] at hleft
  exact ⟨hleft.1, hleft.2.1⟩

theorem State.abandonOperations_operations (s : State) : s.abandonOperations.operations = [] := by
  obtain ⟨order, n, -, h⟩ := s.abandonOperations_eq
  rw [h, State.abandonZeroFill_operations]
  exact foldl_keeps (Q := fun u : State => u.operations = []) abandonOne
    (fun u o hu => (abandonOne_operations u o).trans hu) order _ rfl

/-- Requests of which one stores and that do not clash touch no byte in common. -/
theorem PoolRequest.disjoint_of_not_clashes {a b : PoolAddress} {d e : List Byte}
    (h : (PoolRequest.write a d).clashes (.write b e) = false) {k : Nat} (hk : k < e.length) :
    b.toNat + k < a.toNat ∨ a.toNat + d.length ≤ b.toNat + k := by
  have hapart : ¬ (a.toNat < b.toNat + e.length ∧ b.toNat < a.toNat + d.length) := of_decide_eq_false h
  omega

/-- The bytes that an abandoned WRITE names are all as it stores them, or all as they were. -/
def AllOrNone (s : State) (b : PoolAddress) (d : List Byte) (m : Pool) : Prop :=
  (∀ k (h : k < d.length), m.readByte (b.toNat + k) = d[k]) ∨
    (∀ k, k < d.length → m.readByte (b.toNat + k) = s.pool.readByte (b.toNat + k))

theorem AllOrNone.congr {s : State} {b : PoolAddress} {d : List Byte} {m m' : Pool} (h : AllOrNone s b d m)
    (he : ∀ k, k < d.length → m'.readByte (b.toNat + k) = m.readByte (b.toNat + k)) : AllOrNone s b d m' :=
  h.imp (fun h k hk => (he k hk).trans (h k hk)) fun h k hk => (he k hk).trans (h k hk)

/-- What a device reset leaves of the pool. -/
theorem State.abandonOperations_poolKept {s t : State} (ht : t.pool = s.abandonOperations.pool) : PoolKept s t := by
  obtain ⟨order, n, horder, heq⟩ := s.abandonOperations_eq
  rw [heq] at ht
  refine ⟨fun a hslot hout => ?_, fun o ho b d hreq hdone hwf hslot hclash => ?_⟩
  · have hfold := List.foldlRecOn (motive := fun u : State => u.pool.readByte a = s.pool.readByte a ∧
      u.scrubSlot = s.scrubSlot) order abandonOne (b := { s with choices := n, operations := [] }) ⟨rfl, rfl⟩ ?_
    · rw [ht, State.readByte_abandonZeroFill _ (by rw [hfold.2]; exact hslot)]
      exact hfold.1
    · rintro u ⟨hu, hs⟩ o ho
      refine ⟨?_, (abandonOne_scrubSlot u o).trans hs⟩
      rcases abandonOne_pool u o with h | ⟨b, d, hreq, h⟩
      · rw [h]; exact hu
      · rw [h, Pool.readByte_writeBytes_outside d _ (hout o (horder o ho).1 b d hreq (horder o ho).2)]
        exact hu
  · have hfold := List.foldlRecOn (motive := fun u : State => u.pool.wf = true ∧ AllOrNone s b d u.pool ∧
      u.scrubSlot = s.scrubSlot) order abandonOne (b := { s with choices := n, operations := [] })
      ⟨hwf, .inr fun _ _ => rfl, rfl⟩ ?_
    · rw [ht]
      exact hfold.2.1.congr fun k hk => State.readByte_abandonZeroFill _ (by rw [hfold.2.2]; exact hslot k hk)
    · rintro u ⟨hu, hall, hs⟩ o' ho'
      refine ⟨(abandonOne_abandons u o').wf hu, ?_, (abandonOne_scrubSlot u o').trans hs⟩
      rcases abandonOne_pool u o' with h | ⟨b', d', hreq', h⟩
      · rw [h]; exact hall
      · rw [h]
        by_cases hoo : o' = o
        · subst hoo
          obtain ⟨rfl, rfl⟩ := PoolRequest.write.inj (hreq'.symm.trans hreq)
          exact .inl fun k hk => Pool.readByte_writeBytes_inside _ _ _ hu hk
        · have hno := hclash o' (horder o' ho').1 hoo (horder o' ho').2
          rw [hreq', hreq] at hno
          exact hall.congr fun k hk =>
            Pool.readByte_writeBytes_outside d' _ (PoolRequest.disjoint_of_not_clashes hno hk)

end Sys2Proof.Machine
end

section
/-! The whole states after the resets and at the start-up that follows them. -/

namespace Sys2Proof.Machine

open Sys2Proof.Safety

/-! ## Start-up -/

theorem State.hasAlert_settleEntry (s : State) (n : EntryNumber) (v : EntryVerdict) {c : AlertCause}
    (hc : c ≠ .profileFault) : (s.settleEntry n v).hasAlert c = s.hasAlert c := by
  cases v with
  | accepted => simp only [State.settleEntry]; split <;> rfl
  | unused => rfl
  | _ => exact (State.hasAlert_setAlert _ c .profileFault).trans (by simp [hc, State.noteOutcome, State.hasAlert])

/-- Start-up sets no alert but PROFILE_FAULT (R159). -/
theorem State.hasAlert_instantiate (s : State) {c : AlertCause} (hc : c ≠ .profileFault) :
    s.instantiate.hasAlert c = s.hasAlert c :=
  State.instantiate_by_entry (Q := fun _ u => u.hasAlert c = s.hasAlert c) s rfl fun n u h =>
    (u.hasAlert_settleEntry n _ hc).trans h

/-- What steps 4 to 6 of a start-up leave as it was (R158). -/
theorem startedUp_eq (s : State) (powerOn : Bool) : startedUp s powerOn =
    { s with
      phase := .startingUp powerOn, leases := (startedUp s powerOn).leases
      alertCauses := (startedUp s powerOn).alertCauses
      report := { s.report with outcomes := (startedUp s powerOn).report.outcomes }
      scrubQueue := (startedUp s powerOn).scrubQueue } :=
  congrArg (fun u : State => { u with phase := .startingUp powerOn, scrubQueue := (startedUp s powerOn).scrubQueue })
    s.instantiate_only

theorem startedUp_lease (s : State) (powerOn : Bool) (i : RecordIndex) :
    (startedUp s powerOn).lease i = s.instantiate.lease i := rfl

theorem startedUp_hasAlert (s : State) (powerOn : Bool) {c : AlertCause} (hc : c ≠ .profileFault) :
    (startedUp s powerOn).hasAlert c = s.hasAlert c := s.hasAlert_instantiate hc

/-- A record after a start-up from FREE records: FREE as before, or a standing lease of the next generation (R18). -/
theorem startedUp_lease_cases {s : State} (powerOn : Bool) {i : RecordIndex} {g : BitVec 16}
    (h : s.lease i = emptyRecord g) : (startedUp s powerOn).lease i = emptyRecord g ∨
      (((startedUp s powerOn).lease i).standing.isSome = true ∧ ((startedUp s powerOn).lease i).state = .active ∧
        ((startedUp s powerOn).lease i).generation = g + 1) := by
  rw [startedUp_lease]
  rcases s.lease_instantiate i with hi | ⟨-, n, -, hi⟩
  · exact .inl (hi.trans h)
  · rw [hi, State.standingRecord, h]
    exact .inr ⟨rfl, rfl, rfl⟩

/-! ## The choice of the slot (R158, step 1) -/

theorem State.bootSource_of_valid {s : State} {n : Fin 4} {f : Profile} (hn : s.bootCell.named = some n)
    (hf : s.validImage n = some f) : s.bootSource = (n, f, none) := by
  simp only [State.bootSource, hn, hf]

theorem State.bootSource_of_unnamed {s : State} (hn : s.bootCell.named = none) :
    s.bootSource = (0, factoryProfile, some .bootCellInvalid) := by
  simp only [State.bootSource, hn]

theorem State.bootSource_of_invalid {s : State} {n : Fin 4} (hn : s.bootCell.named = some n)
    (hf : s.validImage n = none) : s.bootSource = (0, factoryProfile, some .slotInvalid) := by
  simp only [State.bootSource, hn, hf]

/-- The state that a power-on start-up captures its profile in: PROFILE_FAULT is set by a fallback (R158). -/
def State.withFallback (s : State) : State := if s.bootSource.2.2.isSome then s.setAlert .profileFault else s

theorem State.powerOnStartUp_eq (s : State) : s.powerOnStartUp =
    startedUp (captured s.withFallback s.bootSource.2.1 (.slot s.bootSource.1) s.bootSource.2.2) true := rfl

theorem State.withFallback_eq (s : State) : s.withFallback = { s with alertCauses := s.withFallback.alertCauses } := by
  unfold State.withFallback; split <;> rfl

theorem State.powerOnStartUp_outcomes (s : State) :
    (∀ n f, s.bootCell.named = some n → s.validImage n = some f →
      s.powerOnStartUp = startedUp (captured s f (.slot n) none) true) ∧
    (s.bootCell.named = none → s.powerOnStartUp =
      startedUp (captured (s.setAlert .profileFault) factoryProfile (.slot 0) (some .bootCellInvalid)) true) ∧
    (∀ n, s.bootCell.named = some n → s.validImage n = none → s.powerOnStartUp =
      startedUp (captured (s.setAlert .profileFault) factoryProfile (.slot 0) (some .slotInvalid)) true) := by
  refine ⟨fun n f hn hf => ?_, fun hn => ?_, fun n hn hf => ?_⟩
  · rw [State.powerOnStartUp_eq, State.withFallback, State.bootSource_of_valid hn hf]; rfl
  · rw [State.powerOnStartUp_eq, State.withFallback, State.bootSource_of_unnamed hn]; rfl
  · rw [State.powerOnStartUp_eq, State.withFallback, State.bootSource_of_invalid hn hf]; rfl

/-- What a power-on start-up leaves as it was, and what it takes from the profile that it loads. -/
theorem State.powerOnStartUp_fields (s : State) : s.powerOnStartUp =
    { s with
      phase := .startingUp true, running := s.powerOnStartUp.running
      geometry := ⟨s.powerOnStartUp.running.poolGranules, s.powerOnStartUp.running.initScrub⟩
      standingSet := s.powerOnStartUp.running.standing, leases := s.powerOnStartUp.leases
      alertCauses := s.powerOnStartUp.alertCauses, report := s.powerOnStartUp.report
      scrubQueue := s.powerOnStartUp.scrubQueue } := by
  have h := startedUp_eq (captured s.withFallback s.bootSource.2.1 (.slot s.bootSource.1) s.bootSource.2.2) true
  have hw := s.withFallback_eq
  rw [← State.powerOnStartUp_eq] at h
  generalize s.powerOnStartUp = t at *
  generalize s.withFallback = w at *
  rw [h, hw]
  rfl

/-! ## Power-on reset -/

theorem State.resetAsserted_iff (s : State) : s.resetAsserted = true ↔ s.phase = .powerOnHeld ∨ s.phase = .resetHeld :=
  decide_eq_true_iff

theorem afterPowerOn_port (s : State) (p : Port) : (afterPowerOn s).port p =
    { state := .down, linkFlag := false, epoch := 0, helloPending := none, fenceCause := none, hostId := 0,
      outbound := [], commandQueue := [], accessQueue := [], refusal := none, commandTags := 0, readTags := 0,
      unit := { entries := [], inFlight := none, sequence := 0, ackTimer := none }, lineUp := false } :=
  s.powerOnBlank_port p

/-- Settles O50: `State.powerOnStartUp_outcomes` on the state after power-on, and `startedUp_eq` for what is left. -/
theorem powerOnOutcome : Obligations.PowerOnOutcome := by
  refine ⟨fun g => rfl, fun s => ⟨fun hheld => ?_, fun hn hn' => ?_⟩⟩
  · exact if_pos (s.resetAsserted_iff.2 hheld)
  have hexec : exec .powerOnReset s = .next (afterPowerOn s).powerOnStartUp :=
    if_neg fun h => (s.resetAsserted_iff.1 h).elim hn hn'
  obtain ⟨hvalid, hunnamed, hinvalid⟩ := (afterPowerOn s).powerOnStartUp_outcomes
  refine ⟨fun n f h hf => hexec.trans (congrArg _ (hvalid n f h hf)), fun h => hexec.trans (congrArg _ (hunnamed h)),
    fun n h hf => hexec.trans (congrArg _ (hinvalid n h hf)), _, hexec, ?_⟩
  have hlease : ∀ i, (captured (afterPowerOn s).withFallback (afterPowerOn s).bootSource.2.1
      (.slot (afterPowerOn s).bootSource.1) (afterPowerOn s).bootSource.2.2).lease i = emptyRecord 0 := fun i => by
    rw [State.withFallback_eq]
    exact s.powerOnBlank_lease i
  have hcases := fun i => startedUp_lease_cases true (hlease i)
  have halert : ∀ c, c ≠ AlertCause.profileFault → (afterPowerOn s).powerOnStartUp.hasAlert c = false := fun c hc => by
    rw [State.powerOnStartUp_eq, startedUp_hasAlert _ _ hc]
    show (afterPowerOn s).withFallback.hasAlert c = false
    unfold State.withFallback
    split
    · rw [State.hasAlert_setAlert]; simp [hc, State.hasAlert, afterPowerOn]
    · simp [State.hasAlert, afterPowerOn]
  have hlease' : (∀ i, ((afterPowerOn s).powerOnStartUp.lease i).standing = none →
        (afterPowerOn s).powerOnStartUp.lease i = emptyRecord 0) ∧
      (∀ i, ((afterPowerOn s).powerOnStartUp.lease i).standing.isSome →
        ((afterPowerOn s).powerOnStartUp.lease i).generation = 1 ∧
          ((afterPowerOn s).powerOnStartUp.lease i).state = .active) := by
    refine ⟨fun i hi => ?_, fun i hi => ?_⟩ <;> rcases hcases i with h | ⟨hs, hst, hg⟩
    · exact h
    · rw [← State.powerOnStartUp_eq, hi] at hs; cases hs
    · rw [State.powerOnStartUp_eq, h] at hi; cases hi
    · exact ⟨hg, hst⟩
  obtain ⟨hfree, hstand⟩ := hlease'
  have hfields := (afterPowerOn s).powerOnStartUp_fields
  exact ⟨congrArg State.phase hfields, congrArg State.clock hfields, congrArg State.waitQueue hfields,
    congrArg State.held hfields, congrArg State.hostSlots hfields, congrArg State.scrubSlot hfields,
    congrArg State.operations hfields, congrArg State.nvOperation hfields, (congrArg State.response hfields :),
    congrArg State.alertMaskBits hfields, (congrArg State.userSlots hfields :), (congrArg State.bootCell hfields :),
    congrArg State.commandServed hfields, congrArg State.accessServed hfields, (congrArg State.pending hfields :),
    fun p => (State.port_eq_of_ports_eq (congrArg State.ports hfields) p).trans (afterPowerOn_port s p), hfree, hstand,
    congrArg State.geometry hfields, congrArg State.standingSet hfields, halert⟩

/-! ## Device reset and RESET# -/

theorem State.deviceResetBlocks_state (s : State) : DeviceResetState s s.deviceResetBlocks := by
  have hport := s.deviceResetBlocks_port
  rw [State.deviceResetBlocks_eq] at hport ⊢
  exact ⟨rfl, rfl, rfl, rfl, rfl, s.abandonOperations_operations, rfl, rfl, rfl, rfl, rfl, rfl, rfl, rfl, hport⟩

theorem State.deviceResetBlocks_poolKept (s : State) : PoolKept s s.deviceResetBlocks :=
  State.abandonOperations_poolKept rfl

/-- A start-up from the kept profile leaves what a device reset has made. -/
theorem deviceResetState_startedUp {s b : State} (h : DeviceResetState s b) (source : StartUpSource)
    (fallback : Option FallbackReason) (powerOn : Bool) :
    DeviceResetState s (startedUp (captured b b.running source fallback) powerOn) := by
  rw [startedUp_eq]
  exact h

theorem poolKept_of_pool_eq {s t u : State} (h : PoolKept s t) (hu : u.pool = t.pool) : PoolKept s u := by
  unfold PoolKept
  rw [hu]
  exact h

theorem State.deviceResetStartUp_eq (s : State) :
    s.deviceResetStartUp = startedUp (captured s s.running .kept none) false := rfl

/-- A ready part's DEVICE_RESET: the blocks as after a device reset with the response kept, and the start-up. -/
theorem deviceReset_outcome {s b t : State} (hb : b = (s.putResponse 0x0E .ok []).deviceResetBlocks)
    (ht : t = startedUp (captured b s.running .kept none) false) :
    DeviceResetState s b ∧ PoolKept s b ∧ b.response = some ⟨0x0E, .ok, []⟩ ∧ b.alertCauses = 0 ∧
      (∀ i, b.lease i = emptyRecord (s.lease i).generation) ∧
      t.phase = .startingUp false ∧ t.response = some ⟨0x0E, .ok, []⟩ ∧
      DeviceResetState s t ∧ PoolKept s t ∧ t.geometry = ⟨s.running.poolGranules, s.running.initScrub⟩ ∧
      t.standingSet = s.running.standing ∧ t.report.source = .kept ∧ t.report.fallback = none ∧
      (∀ c, c ≠ .profileFault → t.hasAlert c = false) ∧
      (∀ i, t.lease i = emptyRecord (s.lease i).generation ∨
        ((t.lease i).standing.isSome ∧ (t.lease i).state = .active ∧
          (t.lease i).generation = (s.lease i).generation + 1)) := by
  have hstate : DeviceResetState s b := hb ▸ (s.putResponse 0x0E .ok []).deviceResetBlocks_state
  have hpool : PoolKept s b := hb ▸ (s.putResponse 0x0E .ok []).deviceResetBlocks_poolKept
  have hlease : ∀ i, b.lease i = emptyRecord (s.lease i).generation := fun i =>
    hb ▸ (s.putResponse 0x0E .ok []).deviceResetBlocks_lease i
  have hrunning : b.running = s.running := by rw [hb, State.deviceResetBlocks_eq]; rfl
  have hresponse : b.response = some ⟨0x0E, .ok, []⟩ := by rw [hb, State.deviceResetBlocks_eq]; rfl
  have halert : b.alertCauses = 0 := by rw [hb, State.deviceResetBlocks_eq]
  have hfields := startedUp_eq (captured b s.running .kept none) false
  rw [← ht] at hfields
  refine ⟨hstate, hpool, hresponse, halert, hlease, congrArg State.phase hfields,
    (congrArg State.response hfields).trans hresponse, ?_, poolKept_of_pool_eq hpool (congrArg State.pool hfields :),
    congrArg State.geometry hfields, congrArg State.standingSet hfields,
    congrArg (fun u : State => u.report.source) hfields, congrArg (fun u : State => u.report.fallback) hfields,
    fun c hc => ?_, fun i => ?_⟩
  · rw [ht, ← hrunning]
    exact deviceResetState_startedUp hstate .kept none false
  · rw [ht, startedUp_hasAlert _ _ hc]
    show b.alertCauses.getLsbD c.bit = false
    simp [halert]
  · rw [ht]
    exact startedUp_lease_cases false (hlease i)

theorem exec_deviceReset {s : State} (h : s.phase = .ready) :
    exec .deviceReset s = .next (s.putResponse 0x0E .ok []).deviceResetBlocks.deviceResetStartUp :=
  if_neg (not_not.2 h)

theorem exec_resetAssert {s : State} (h : s.phase ≠ .powerOnHeld) (h' : s.phase ≠ .resetHeld) :
    exec .resetAssert s = .next { s.deviceResetBlocks with response := none, phase := .resetHeld } :=
  if_neg fun ha => (s.resetAsserted_iff.1 ha).elim h h'

theorem exec_resetRelease_of_resetHeld {s : State} (h : s.phase = .resetHeld) :
    exec .resetRelease s = .next (startedUp (captured s s.running .kept none) false) := by
  show execResetRelease s = _
  unfold execResetRelease
  rw [h]
  rfl

theorem exec_resetRelease_of_powerOnHeld {s : State} (h : s.phase = .powerOnHeld) :
    exec .resetRelease s = .next s.powerOnStartUp := by
  show execResetRelease s = _
  unfold execResetRelease
  rw [h]

/-- Settles O51: `deviceReset_outcome` for the request, the blocks alone while RESET# is asserted, and the two
start-ups at its release. -/
theorem deviceResetOutcome : Obligations.DeviceResetOutcome := by
  refine ⟨fun s hr => ?_, fun s hn hn' => ?_, fun s hheld => ?_, fun s hheld => ?_⟩
  · have hrunning : (s.putResponse 0x0E .ok []).deviceResetBlocks.running = s.running := by
      rw [State.deviceResetBlocks_eq]; rfl
    refine ⟨_, _, exec_deviceReset hr, ?_, deviceReset_outcome rfl ?_⟩ <;>
      rw [State.deviceResetStartUp_eq, hrunning]
  · refine ⟨_, exec_resetAssert hn hn', rfl, rfl, ?_⟩
    have hstate := s.deviceResetBlocks_state
    have hlease := s.deviceResetBlocks_lease
    have hpool := s.deviceResetBlocks_poolKept
    rw [State.deviceResetBlocks_eq] at *
    exact ⟨hstate, hpool, rfl, rfl, rfl, hlease⟩
  · have hfields := startedUp_eq (captured s s.running .kept none) false
    refine ⟨exec_resetRelease_of_resetHeld hheld, _, exec_resetRelease_of_resetHeld hheld,
      congrArg State.phase hfields, (congrArg State.running hfields :), (congrArg State.response hfields :),
      (congrArg State.ports hfields :), (congrArg State.pool hfields :), congrArg State.geometry hfields,
      congrArg State.standingSet hfields, congrArg (fun u : State => u.report.source) hfields⟩
  · obtain ⟨hvalid, hunnamed, hinvalid⟩ := s.powerOnStartUp_outcomes
    have hexec := exec_resetRelease_of_powerOnHeld hheld
    have hfields := s.powerOnStartUp_fields
    exact ⟨fun n f h hf => hexec.trans (congrArg _ (hvalid n f h hf)), fun h => hexec.trans (congrArg _ (hunnamed h)),
      fun n h hf => hexec.trans (congrArg _ (hinvalid n h hf)), _, hexec, congrArg State.phase hfields,
      (congrArg State.ports hfields :)⟩

end Sys2Proof.Machine
end

section
/-! The arithmetic of extents, and what stands in the way of a proposed extent (R24, R29, R30, R33). -/

namespace Sys2Proof.Machine

open Sys2Proof.Safety

/-! ## Extents (R24) -/

theorem Extent.overlaps_iff (a b : Extent) :
    a.overlaps b = true ↔ a.base ≤ b.base + b.count - 1 ∧ b.base ≤ a.base + a.count - 1 :=
  decide_eq_true_iff

theorem Extent.overlaps_comm (a b : Extent) : a.overlaps b = b.overlaps a := by
  simp [Extent.overlaps, and_comm]

theorem Extent.covers_iff {a : Extent} (h : 1 ≤ a.count) (g : Nat) :
    a.covers g = true ↔ a.base ≤ g ∧ g < a.base + a.count := by
  have hlast : a.covers g = true ↔ a.base ≤ g ∧ g ≤ a.base + a.count - 1 := decide_eq_true_iff
  rw [hlast]
  omega

/-- Two extents with granules overlap when one granule lies in both: the higher of the two bases. -/
theorem Extent.overlaps_iff_exists {a b : Extent} (ha : 1 ≤ a.count) (hb : 1 ≤ b.count) : a.overlaps b = true ↔
    ∃ g, (a.base ≤ g ∧ g < a.base + a.count) ∧ (b.base ≤ g ∧ g < b.base + b.count) := by
  rw [Extent.overlaps_iff]
  constructor
  · intro h
    exact ⟨max a.base b.base, by omega, by omega⟩
  · rintro ⟨g, _, _⟩
    omega

theorem blocked_iff (older : List WaitEntry) (e : Extent) :
    blocked older e = true ↔ ∃ x ∈ older, (⟨x.base, x.count⟩ : Extent).overlaps e = true := List.any_eq_true

theorem State.inScrubQueue_iff {s : State} (h : ∀ x ∈ s.scrubQueue, 1 ≤ x.count) (g : Nat) :
    s.inScrubQueue g = true ↔ ∃ x ∈ s.scrubQueue, x.base ≤ g ∧ g < x.base + x.count :=
  List.any_eq_true.trans (exists_congr fun x => and_congr_right fun hx => Extent.covers_iff (h x hx) g)

theorem LeaseRecord.live_iff (r : LeaseRecord) : r.live = true ↔ r.state ≠ .free := decide_eq_true_iff

theorem LeaseRecord.inForce_iff (r : LeaseRecord) : r.inForce = true ↔ r.state = .active ∨ r.state = .notice :=
  decide_eq_true_iff

theorem LeaseRecord.coversLive_iff {r : LeaseRecord} (h : 1 ≤ r.count) (g : Nat) :
    r.coversLive g = true ↔ r.state ≠ .free ∧ r.base ≤ g ∧ g < r.base + r.count := by
  unfold LeaseRecord.coversLive
  rw [Bool.and_eq_true, LeaseRecord.live_iff, Extent.covers_iff h]
  rfl

/-! ## Holders (R7) -/

theorem LeaseRecord.holds_iff (r : LeaseRecord) (p : Port) : r.holds p = true ↔ ∃ h ∈ r.holders, h.port = p := by
  simp [LeaseRecord.holds]

theorem LeaseRecord.holderOf_eq_none_iff (r : LeaseRecord) (p : Port) : r.holderOf p = none ↔ r.holds p = false := by
  simp [LeaseRecord.holderOf, LeaseRecord.holds]

/-- The holder entry of a port is the first that names it. -/
theorem LeaseRecord.holderOf_first {r : LeaseRecord} {p : Port} {before after : List Holder} {h : Holder}
    (hl : r.holders = before ++ h :: after) (hp : h.port = p) (hbefore : ∀ x ∈ before, x.port ≠ p) :
    r.holderOf p = some h := by
  rw [LeaseRecord.holderOf, hl, List.find?_append, List.find?_eq_none.2 (by simpa using hbefore)]
  simp [hp]

/-! ## Conflicts (R29, R30) -/

theorem State.mem_leases (s : State) (i : RecordIndex) : s.lease i ∈ s.leases.toList :=
  List.getElem_mem (l := s.leases.toList) (by simp)

/-- A test of some record of the table. -/
theorem State.any_leases (s : State) (f : LeaseRecord → Bool) :
    s.leases.toList.any f = true ↔ ∃ i, f (s.lease i) = true := by
  rw [List.any_eq_true]
  constructor
  · rintro ⟨r, hr, hf⟩
    obtain ⟨k, hk, rfl⟩ := List.getElem_of_mem hr
    exact ⟨⟨k, by simpa using hk⟩, by simpa [State.lease] using hf⟩
  · rintro ⟨i, hf⟩
    exact ⟨_, s.mem_leases i, hf⟩

/-- What conflicts with a proposed extent: a live lease that excludes its kind, or an extent of the scrub queue. -/
theorem State.conflicts_iff (s : State) (k : AcquireKind) (e : Extent) : s.conflicts k e = true ↔
    (∃ i, (s.lease i).state ≠ .free ∧ (s.lease i).extent.overlaps e = true ∧ (s.lease i).excludes k = true) ∨
      ∃ x ∈ s.scrubQueue, x.overlaps e = true := by
  unfold State.conflicts
  rw [Bool.or_eq_true, State.any_leases, List.any_eq_true]
  simp only [Bool.and_eq_true, LeaseRecord.live_iff, and_assoc]

theorem LeaseRecord.excludes_shared_iff (r : LeaseRecord) : r.excludes .shared = true ↔
    r.kind = some .exclusive ∨ r.kind = some .common ∨ r.written = true ∨ r.state = .draining := by
  simp only [LeaseRecord.excludes, Bool.or_eq_true, decide_eq_true_eq, or_assoc]

/-- Settles O24: each test of the model by the lemma that says when it holds. -/
theorem conflictRule : Obligations.ConflictRule := by
  refine ⟨fun a b => ⟨a.overlaps_iff b, fun ha hb => Extent.overlaps_iff_exists ha hb⟩,
    fun a g h => Extent.covers_iff h g, fun a granules => decide_eq_true_iff, fun a => rfl, blocked_iff,
    fun s g h => State.inScrubQueue_iff h g, fun r g h => LeaseRecord.coversLive_iff h g,
    fun r e n => ⟨rfl, rfl, rfl, r.live_iff, r.inForce_iff⟩,
    fun r p => ⟨r.holds_iff p, r.holderOf_eq_none_iff p, fun before h after hl hp hb => r.holderOf_first hl hp hb⟩,
    fun s e => ⟨?_, ?_⟩⟩
  · rw [State.conflicts_iff]
    simp only [LeaseRecord.excludes, and_true]
  · rw [State.conflicts_iff]
    simp only [LeaseRecord.excludes_shared_iff]

end Sys2Proof.Machine
end

section
/-! The exclusion laws (R31, R32, R93), in the form in which every effect of an event keeps them, and the effects of
the lease table, the scrub engine, the wait queue and the port controllers that keep them. -/

namespace Sys2Proof.Machine

open Sys2Proof.Safety

/-! ## The laws as an invariant of effects -/

/-- The lease of a record whose retirement may be held: DRAINING, and one that tolerates no other (R86, R88). -/
def LeaseRecord.AwaitsScrub (r : LeaseRecord) : Prop := r.state = .draining ∧ ¬ shareable r

/-- The exclusion laws with what makes each effect keep them: held records are DRAINING, and while RESET# holds the
part nothing waits either, so that no scan grants. -/
structure State.Guarded (s : State) : Prop where
  blank : s.resetAsserted = true → ∀ i, (s.lease i).state = .free
  idle : s.resetAsserted = true → s.waitQueue = []
  apart : ∀ i j, i ≠ j → (s.lease i).live = true → (s.lease j).live = true →
    (s.lease i).extent.overlaps (s.lease j).extent = true → shareable (s.lease i)
  clear : ∀ i, (s.lease i).live = true → ∀ x ∈ s.scrubQueue, (s.lease i).extent.overlaps x = false
  disjoint : s.scrubQueue.Pairwise (fun x y => x.overlaps y = false)
  length : s.scrubQueue.length ≤ 512
  nodup : s.held.Nodup
  held : ∀ i ∈ s.held, (s.lease i).AwaitsScrub
  kind : ∀ i, (s.lease i).live = true → (s.lease i).kind.isSome = true

theorem LeaseRecord.live_of_inForce {r : LeaseRecord} (h : r.inForce = true) : r.live = true := by
  rw [LeaseRecord.live_iff]
  rcases r.inForce_iff.1 h with h | h <;> simp [h]

theorem LeaseRecord.AwaitsScrub.live {r : LeaseRecord} (h : r.AwaitsScrub) : r.live = true :=
  r.live_iff.2 (by simp [h.1])

/-- The invariant is the exclusion laws with the two clauses that they leave to the laws of drains and of ports. -/
theorem State.guarded_iff (s : State) : s.Guarded ↔
    Exclusion s ∧ (∀ i ∈ s.held, (s.lease i).state = .draining) ∧ (s.resetAsserted = true → s.waitQueue = []) := by
  constructor
  · intro h
    have hheld : ∀ i ∈ s.held, (s.lease i).live = true ∧ ¬ shareable (s.lease i) := fun i hi =>
      ⟨(h.held i hi).live, (h.held i hi).2⟩
    exact ⟨⟨h.blank, h.apart, h.clear, h.disjoint, h.length, ⟨h.nodup, hheld⟩, h.kind⟩,
      fun i hi => (h.held i hi).1, h.idle⟩
  · rintro ⟨⟨hblank, hapart, hclear, hdisjoint, hlength, ⟨hnodup, hheld⟩, hkind⟩, hdrain, hidle⟩
    exact ⟨hblank, hidle, hapart, hclear, hdisjoint, hlength, hnodup, fun i hi => ⟨hdrain i hi, (hheld i hi).2⟩, hkind⟩

/-- A record in force is not held. -/
theorem State.Guarded.not_held {s : State} (h : s.Guarded) {i : RecordIndex} (hf : (s.lease i).inForce = true) :
    i ∉ s.held := by
  intro hi
  rcases (s.lease i).inForce_iff.1 hf with hs | hs <;> simp [(h.held i hi).1] at hs

/-! ## What an effect may change of a record -/

/-- The record holds the lease that it held, as tolerant as before, or none. -/
structure LeaseRecord.Within (r r' : LeaseRecord) : Prop where
  live : r'.live = true → r.live = true
  extent : r'.live = true → r'.extent = r.extent
  shareable : r'.live = true → shareable r → shareable r'
  kind : r'.live = true → r.kind.isSome = true → r'.kind.isSome = true

theorem LeaseRecord.Within.refl (r : LeaseRecord) : r.Within r := ⟨id, fun _ => rfl, fun _ => id, fun _ => id⟩

theorem LeaseRecord.Within.emptyRecord (r : LeaseRecord) (g : BitVec 16) : r.Within (emptyRecord g) := by
  have hdead : (Machine.emptyRecord g).live ≠ true := by simp [Machine.emptyRecord, LeaseRecord.live]
  exact ⟨fun h => absurd h hdead, fun h => absurd h hdead, fun h => absurd h hdead, fun h => absurd h hdead⟩

/-- The record holds a lease of the same extent, kind and written flag. -/
structure LeaseRecord.SameLease (r r' : LeaseRecord) : Prop where
  extent : r'.extent = r.extent
  kind : r'.kind = r.kind
  written : r'.written = r.written

theorem LeaseRecord.SameLease.shareable_iff {r r' : LeaseRecord} (h : r.SameLease r') : shareable r' ↔ shareable r := by
  simp [shareable, h.kind, h.written]

theorem LeaseRecord.SameLease.within {r r' : LeaseRecord} (h : r.SameLease r') (hl : r'.live = true → r.live = true) :
    r.Within r' :=
  ⟨hl, fun _ => h.extent, fun _ => h.shareable_iff.2, fun _ hk => by rw [h.kind]; exact hk⟩

theorem LeaseRecord.SameLease.awaitsScrub {r r' : LeaseRecord} (h : r.SameLease r') (hs : r'.state = .draining)
    (ha : r.AwaitsScrub) : r'.AwaitsScrub := ⟨hs, fun hn => ha.2 (h.shareable_iff.1 hn)⟩

theorem LeaseRecord.sameLease_toDraining (r : LeaseRecord) (c : RevokeCause) : r.SameLease (r.toDraining c) :=
  ⟨rfl, rfl, rfl⟩

theorem LeaseRecord.sameLease_withoutHolder (r : LeaseRecord) (p : Port) : r.SameLease (r.withoutHolder p) :=
  ⟨rfl, rfl, rfl⟩

/-- A record at a fence start keeps its lease, and is live if it was (R76). -/
theorem LeaseRecord.fenceOff_cases (r : LeaseRecord) (p : Port) :
    r.SameLease (r.fenceOff p) ∧ ((r.fenceOff p).state = r.state ∨ (r.fenceOff p).state = .draining) := by
  unfold LeaseRecord.fenceOff
  extract_lets r'
  split
  · exact ⟨⟨rfl, rfl, rfl⟩, .inr rfl⟩
  · exact ⟨r.sameLease_withoutHolder p, .inl rfl⟩

/-- A converted lease becomes SHARED (R20). -/
theorem LeaseRecord.Within.converted (r : LeaseRecord) : r.Within r.converted :=
  ⟨id, fun _ => rfl, fun _ h => ⟨rfl, h.2⟩, fun _ _ => rfl⟩

/-! ## Effects that give no lease out -/

/-- Leases taken away, and whatever the laws do not speak of changed. -/
theorem State.Guarded.of_leases {s t : State} (h : s.Guarded)
    (hphase : t.resetAsserted = true → s.resetAsserted = true) (hl : ∀ i, (s.lease i).Within (t.lease i))
    (hq : t.scrubQueue = s.scrubQueue) (hh : t.held = s.held) (hkeep : ∀ i ∈ s.held, (t.lease i).AwaitsScrub)
    (hw : s.waitQueue = [] → t.waitQueue = []) : t.Guarded where
  blank hr i := by
    by_contra hn
    have hlive := (hl i).live ((LeaseRecord.live_iff _).2 hn)
    exact (LeaseRecord.live_iff _).1 hlive (h.blank (hphase hr) i)
  idle hr := hw (h.idle (hphase hr))
  apart i j hij hi hj ho := by
    rw [(hl i).extent hi, (hl j).extent hj] at ho
    exact (hl i).shareable hi (h.apart i j hij ((hl i).live hi) ((hl j).live hj) ho)
  clear i hi x hx := by
    rw [(hl i).extent hi]
    exact h.clear i ((hl i).live hi) x (hq ▸ hx)
  disjoint := by rw [hq]; exact h.disjoint
  length := by rw [hq]; exact h.length
  nodup := by rw [hh]; exact h.nodup
  held i hi := hkeep i (hh ▸ hi)
  kind i hi := (hl i).kind hi (h.kind i ((hl i).live hi))

/-- An effect on nothing that the laws speak of. -/
theorem State.Guarded.of_fields {s t : State} (h : s.Guarded) (hphase : t.phase = s.phase)
    (hl : t.leases = s.leases) (hq : t.scrubQueue = s.scrubQueue) (hh : t.held = s.held)
    (hw : s.waitQueue = [] → t.waitQueue = []) : t.Guarded := by
  have hlease := fun i => State.lease_eq_of_leases_eq hl i
  refine h.of_leases (by unfold State.resetAsserted; rw [hphase]; exact id) (fun i => ?_) hq hh (fun i hi => ?_) hw
  · rw [hlease]; exact .refl _
  · rw [hlease]; exact h.held i hi

theorem State.Guarded.setPort {s : State} (h : s.Guarded) (p : Port) (r : PortRecord) : (s.setPort p r).Guarded :=
  h.of_fields rfl rfl rfl rfl id

theorem State.Guarded.setAlert {s : State} (h : s.Guarded) (c : AlertCause) : (s.setAlert c).Guarded :=
  h.of_fields rfl rfl rfl rfl id

theorem State.Guarded.talks {s t : State} (h : s.Guarded) (ht : s.Talks t) : t.Guarded := by
  rw [ht.eq]
  exact h.of_fields rfl rfl rfl rfl id

theorem State.Guarded.onState {w : Work} {f : State → State} (h : (f w.st).Guarded) : (w.onState f).st.Guarded := h

theorem State.Guarded.setLease {s : State} (h : s.Guarded) {i : RecordIndex} {r : LeaseRecord}
    (hr : (s.lease i).Within r) (hheld : i ∈ s.held → r.AwaitsScrub) : (s.setLease i r).Guarded := by
  refine h.of_leases id (fun j => ?_) rfl rfl (fun j hj => ?_) id <;> rw [State.lease_setLease] <;> split
  · next hij => exact hij ▸ hr
  · exact .refl _
  · next hij => exact hheld (hij ▸ hj)
  · exact h.held j hj

/-- A record changed in nothing that the laws speak of. -/
theorem State.Guarded.setLease_same {s : State} (h : s.Guarded) {i : RecordIndex} {r : LeaseRecord}
    (hst : r.state = (s.lease i).state) (hr : (s.lease i).SameLease r) : (s.setLease i r).Guarded :=
  h.setLease (hr.within (by simp only [LeaseRecord.live, hst]; exact id))
    fun hi => hr.awaitsScrub (hst.trans (h.held i hi).1) (h.held i hi)

/-- The record becomes FREE. -/
theorem State.Guarded.freeRecord {s : State} (h : s.Guarded) {i : RecordIndex} (hi : i ∉ s.held) :
    (s.freeRecord i).Guarded := h.setLease (.emptyRecord _ _) fun hh => absurd hh hi

/-! ## Scrub queue and retirement (R86 to R89) -/

theorem State.not_shareable_of_needsScrub {s : State} {r : LeaseRecord} (h : s.needsScrub r = true) :
    ¬ shareable r := by
  rintro ⟨hkind, hwritten⟩
  unfold State.needsScrub at h
  split at h
  · simp [hwritten] at h
  · simp [hkind] at h

/-- An extent that no live lease and no extent of the queue overlaps joins the queue. -/
theorem State.Guarded.joinScrubQueue {s : State} (h : s.Guarded) {e : Extent}
    (hlease : ∀ i, (s.lease i).live = true → (s.lease i).extent.overlaps e = false)
    (hqueue : ∀ x ∈ s.scrubQueue, x.overlaps e = false) (hlen : s.scrubQueue.length < 512) :
    (s.joinScrubQueue e).Guarded := by
  rw [State.joinScrubQueue_eq]
  refine ⟨h.blank, h.idle, h.apart, fun i hi x hx => ?_, ?_, ?_, h.nodup, h.held, h.kind⟩
  · rcases List.mem_append.1 hx with hx | hx
    · exact h.clear i hi x hx
    · rw [List.mem_singleton.1 hx]; exact hlease i hi
  · refine List.pairwise_append.2 ⟨h.disjoint, List.pairwise_singleton _ _, fun x hx y hy => ?_⟩
    rw [List.mem_singleton.1 hy]; exact hqueue x hx
  · simpa using hlen

/-- A lease that tolerates no other retires into the scrub queue. -/
theorem State.Guarded.scrubRecord {s : State} (h : s.Guarded) {i : RecordIndex} (hl : (s.lease i).live = true)
    (hs : ¬ shareable (s.lease i)) (hi : i ∉ s.held) (hlen : s.scrubQueue.length < 512) :
    ((s.freeRecord i).joinScrubQueue (s.lease i).extent).Guarded := by
  refine (h.freeRecord hi).joinScrubQueue (fun j hj => ?_) (fun x hx => ?_) hlen
  · rw [State.lease_freeRecord] at hj ⊢
    split at hj
    · simp [emptyRecord, LeaseRecord.live] at hj
    · next hij =>
      rw [if_neg hij, Extent.overlaps_comm]
      by_contra ho
      exact hs (h.apart i j hij hl hj (by simpa using ho))
  · rw [Extent.overlaps_comm]
    exact h.clear i hl x hx

/-- A retirement step of a DRAINING lease that is not held already (R86 to R88). -/
theorem State.Guarded.retire {w : Work} (h : w.st.Guarded) {i : RecordIndex}
    (hd : (w.st.lease i).state = .draining) (hi : i ∉ w.st.held) : (w.retire i).st.Guarded := by
  have hlive : (w.st.lease i).live = true := (LeaseRecord.live_iff _).2 (by simp [hd])
  rcases w.retire_cases i with ⟨-, hr⟩ | ⟨hn, hlen, hr⟩ | ⟨hn, -, hr⟩ <;> rw [hr]
  · exact h.freeRecord hi
  · exact h.scrubRecord hlive (State.not_shareable_of_needsScrub hn) hi hlen
  · have hset : (w.st.setLease i { w.st.lease i with retireHeld := true }).Guarded :=
      h.setLease_same rfl ⟨rfl, rfl, rfl⟩
    refine ⟨hset.blank, hset.idle, hset.apart, hset.clear, hset.disjoint, hset.length, ?_, fun j hj => ?_, hset.kind⟩
    · exact List.nodup_append.2 ⟨h.nodup, List.nodup_singleton i, fun j hj k hk hjk =>
        hi (List.mem_singleton.1 hk ▸ hjk ▸ hj)⟩
    · rcases List.mem_append.1 hj with hj | hj
      · exact hset.held j hj
      · obtain rfl := List.mem_singleton.1 hj
        have hlease : (w.st.setLease j { w.st.lease j with retireHeld := true }).lease j =
            { w.st.lease j with retireHeld := true } := (State.lease_setLease ..).trans (if_pos rfl)
        have hheld : ({ w.st.lease j with retireHeld := true } : LeaseRecord).AwaitsScrub :=
          ⟨hd, State.not_shareable_of_needsScrub hn⟩
        exact hlease.symm ▸ hheld

/-- A retirement step changes and holds no other record. -/
theorem Work.retire_others (w : Work) {i j : RecordIndex} (hij : j ≠ i) :
    (w.retire i).st.lease j = w.st.lease j ∧ (j ∈ (w.retire i).st.held → j ∈ w.st.held) := by
  have hne : i ≠ j := Ne.symm hij
  rcases w.retire_cases i with ⟨-, hr⟩ | ⟨-, -, hr⟩ | ⟨-, -, hr⟩ <;> rw [hr]
  · exact ⟨(State.lease_freeRecord w.st i j).trans (if_neg hne), id⟩
  · rw [Work.needScan_st, Work.onState_st, State.joinScrubQueue_eq]
    exact ⟨(State.lease_freeRecord w.st i j).trans (if_neg hne), id⟩
  · exact ⟨(State.lease_setLease w.st i j _).trans (if_neg hne), fun hj => by simpa [hij] using hj⟩

/-- Several retirement steps, of distinct DRAINING leases that are not held already. -/
theorem State.Guarded.foldl_retire : ∀ (l : List RecordIndex) (w : Work), w.st.Guarded → l.Nodup →
    (∀ i ∈ l, (w.st.lease i).state = .draining ∧ i ∉ w.st.held) →
      (l.foldl Work.retire w).st.Guarded ∧ ∀ j ∉ l, (l.foldl Work.retire w).st.lease j = w.st.lease j ∧
        (j ∈ (l.foldl Work.retire w).st.held → j ∈ w.st.held) := by
  intro l
  induction l with
  | nil => exact fun w h _ _ => ⟨h, fun _ _ => ⟨rfl, id⟩⟩
  | cons i rest ih =>
    intro w h hnodup hl
    obtain ⟨hnot, hrest⟩ := List.nodup_cons.1 hnodup
    obtain ⟨hd, hi⟩ := hl i List.mem_cons_self
    obtain ⟨hg, hothers⟩ := ih (w.retire i) (h.retire hd hi) hrest fun j hj => by
      obtain ⟨hlease, hheld⟩ := w.retire_others (ne_of_mem_of_not_mem hj hnot)
      obtain ⟨hdj, hj'⟩ := hl j (List.mem_cons_of_mem _ hj)
      exact ⟨hlease ▸ hdj, fun hm => hj' (hheld hm)⟩
    refine ⟨hg, fun j hj => ?_⟩
    rw [List.mem_cons, not_or] at hj
    obtain ⟨hji, hjr⟩ := hj
    obtain ⟨hlease, hheld⟩ := w.retire_others hji
    obtain ⟨hlease', hheld'⟩ := hothers j hjr
    exact ⟨hlease'.trans hlease, hheld ∘ hheld'⟩

/-! ## Drains and the loss of holders (R75, R78, R84) -/

theorem State.Guarded.drain {w : Work} (h : w.st.Guarded) {i : RecordIndex} (hf : (w.st.lease i).inForce = true)
    (c : RevokeCause) : (w.drain i c).st.Guarded := by
  have hdrained : (w.st.setLease i ((w.st.lease i).toDraining c)).Guarded :=
    h.setLease ((LeaseRecord.sameLease_toDraining _ c).within fun _ => LeaseRecord.live_of_inForce hf)
      fun hi => absurd hi (h.not_held hf)
  obtain ⟨w', rfl, ⟨hr, -⟩ | ⟨hr, -⟩⟩ := w.drain_cases i c <;> rw [hr]
  · exact hdrained
  · refine State.Guarded.retire (w := w.onState fun s => s.setLease i ((s.lease i).toDraining c)) hdrained ?_
      (h.not_held hf)
    rw [Work.onState_st, State.lease_setLease, if_pos rfl]
    rfl

theorem State.Guarded.withoutHolder {s : State} (h : s.Guarded) (i : RecordIndex) (p : Port) :
    (s.setLease i ((s.lease i).withoutHolder p)).Guarded :=
  h.setLease_same rfl (LeaseRecord.sameLease_withoutHolder _ p)

theorem State.inForce_withoutHolder {s : State} {i : RecordIndex} (hf : (s.lease i).inForce = true) (p : Port) :
    ((s.setLease i ((s.lease i).withoutHolder p)).lease i).inForce = true := by
  rw [State.lease_setLease, if_pos rfl]
  exact hf

theorem State.Guarded.removeHolder {w : Work} (h : w.st.Guarded) {i : RecordIndex}
    (hf : (w.st.lease i).inForce = true) (p : Port) (c : RevokeCause) : (w.removeHolder i p c).st.Guarded := by
  obtain ⟨w', rfl, ⟨-, hr⟩ | ⟨-, hr⟩⟩ := w.removeHolder_cases i p c <;> rw [hr]
  · exact h.withoutHolder i p
  · exact State.Guarded.drain (w := w.onState fun s => s.setLease i ((s.lease i).withoutHolder p)) (h.withoutHolder i p)
      (State.inForce_withoutHolder hf p) c

theorem State.Guarded.send {w : Work} (h : w.st.Guarded) (p : Port) (k : OutPacket) : (w.send p k).st.Guarded :=
  h.talks (w.send_talks p k).st

theorem State.Guarded.respond {w : Work} (h : w.st.Guarded) (p : Port) (tag : CommandTag) (a : Answer) :
    (w.respond p tag a).st.Guarded := h.send p _

theorem State.Guarded.raise {w : Work} (h : w.st.Guarded) (p : Port) (hd : Handle) (e : NoticeEvent) :
    (w.raise p hd e).st.Guarded := h.talks (w.raise_talks p hd e).st

theorem State.Guarded.raiseHolders {w : Work} (h : w.st.Guarded) (i : RecordIndex) (e : NoticeEvent) :
    (w.raiseHolders i e).st.Guarded := h.talks (w.raiseHolders_talks i e).st

theorem State.Guarded.revokeAll {w : Work} (h : w.st.Guarded) {i : RecordIndex}
    (hf : (w.st.lease i).inForce = true) : (w.revokeAll i).st.Guarded := by
  obtain ⟨hg, hforce⟩ := foldl_keeps (Q := fun x : Work => x.st.Guarded ∧ (x.st.lease i).inForce = true)
    (fun x (y : Holder) => (x.onState (fun s => s.setLease i ((s.lease i).withoutHolder y.port))).raise y.port
      (x.st.handleOf i) (.revoked .forced))
    (fun x y hx => ⟨.raise (.onState (hx.1.withoutHolder i y.port)) _ _ _, by
      rw [(Work.raise_talks _ _ _ _).st.lease]
      exact State.inForce_withoutHolder hx.2 y.port⟩) (w.st.lease i).holders w ⟨h, hf⟩
  exact hg.drain hforce .forced

theorem State.Guarded.giveNotice {w : Work} (h : w.st.Guarded) {i : RecordIndex}
    (hf : (w.st.lease i).inForce = true) (d : ClockValue) : (w.giveNotice i d).st.Guarded := by
  have hsame : (w.st.lease i).SameLease
      { w.st.lease i with state := .notice, notice := some ⟨.forced, d⟩, revokeCause := some .forced } :=
    ⟨rfl, rfl, rfl⟩
  have hnotice := h.setLease (hsame.within fun _ => LeaseRecord.live_of_inForce hf) fun hi => absurd hi (h.not_held hf)
  exact .raiseHolders (.onState hnotice) i _

theorem State.Guarded.drainOne {w : Work} (h : w.st.Guarded) {i : RecordIndex} (hi : i ∉ w.st.held) :
    (w.drainOne i).st.Guarded := by
  have hcount : (w.st.setLease i { w.st.lease i with drainCount := (w.st.lease i).drainCount - 1 }).Guarded :=
    h.setLease_same rfl ⟨rfl, rfl, rfl⟩
  obtain ⟨w', rfl, ⟨hr, -⟩ | ⟨hr, hd, -⟩⟩ := w.drainOne_cases i <;> rw [hr]
  · exact hcount
  · refine State.Guarded.retire (w := w.onState fun s =>
      s.setLease i { s.lease i with drainCount := (s.lease i).drainCount - 1 }) hcount ?_ hi
    rw [Work.onState_st, State.lease_setLease, if_pos rfl]
    exact hd

theorem State.Guarded.poolError {w : Work} (h : w.st.Guarded) (i : RecordIndex) (a : PoolAddress) :
    (w.poolError i a).st.Guarded := by
  have hdamage := h.setLease_same (i := i)
    (r := { w.st.lease i with damage := (w.st.lease i).damage.orElse (fun _ => some a) }) rfl ⟨rfl, rfl, rfl⟩
  exact .onState (.setAlert (.raiseHolders (.onState hdamage) i _) .damage)

/-! ## Grants and scans (R29, R30, R66) -/

/-- What does not exclude a SHARED lease tolerates other leases (R30, R31). -/
theorem LeaseRecord.shareable_of_not_excludes {r : LeaseRecord} (hk : r.kind.isSome = true)
    (h : r.excludes .shared = false) : shareable r := by
  rw [Bool.eq_false_iff, ne_eq, LeaseRecord.excludes_shared_iff, not_or, not_or, not_or] at h
  obtain ⟨hexcl, hcommon, hwritten, -⟩ := h
  refine ⟨?_, Bool.eq_false_iff.2 hwritten⟩
  cases hkind : r.kind with
  | none => simp [hkind] at hk
  | some k => cases k <;> simp_all

theorem State.not_conflicts {s : State} {k : AcquireKind} {e : Extent} (h : s.conflicts k e = false) :
    (∀ i, (s.lease i).live = true → (s.lease i).extent.overlaps e = true → (s.lease i).excludes k = false) ∧
      ∀ x ∈ s.scrubQueue, x.overlaps e = false := by
  rw [Bool.eq_false_iff, ne_eq, State.conflicts_iff, not_or] at h
  obtain ⟨hleases, hqueue⟩ := h
  push Not at hleases hqueue
  exact ⟨fun i hl ho => Bool.eq_false_iff.2 (hleases i ((LeaseRecord.live_iff _).1 hl) ho),
    fun x hx => Bool.eq_false_iff.2 (hqueue x hx)⟩

/-- A grant of an extent that does not conflict (R29 to R32). -/
theorem State.Guarded.grantRecord {s : State} (h : s.Guarded) (hr : s.resetAsserted = false) {i : RecordIndex}
    (hfree : (s.lease i).state = .free) {k : AcquireKind} {e : Extent} (hc : s.conflicts k e = false) (p : Port)
    (term : Nat) : (s.setLease i (s.grantedRecord i p k e term)).Guarded := by
  obtain ⟨hleases, hqueue⟩ := State.not_conflicts hc
  have hextent : (s.grantedRecord i p k e term).extent = e := rfl
  have htolerant : ∀ j, (s.lease j).live = true → (s.lease j).extent.overlaps e = true →
      shareable (s.lease j) ∧ shareable (s.grantedRecord i p k e term) := fun j hj ho => by
    have hex := hleases j hj ho
    cases k with
    | exclusive => simp [LeaseRecord.excludes] at hex
    | shared => exact ⟨LeaseRecord.shareable_of_not_excludes (h.kind j hj) hex, rfl, rfl⟩
  have hnot : i ∉ s.held := fun hi => by simp [(h.held i hi).1] at hfree
  have hother : ∀ j, i ≠ j → (s.setLease i (s.grantedRecord i p k e term)).lease j = s.lease j := fun j hij =>
    (State.lease_setLease s i j _).trans (if_neg hij)
  have hnew : (s.setLease i (s.grantedRecord i p k e term)).lease i = s.grantedRecord i p k e term :=
    (State.lease_setLease s i i _).trans (if_pos rfl)
  refine ⟨fun ha => absurd (hr.symm.trans ha) (by simp), fun ha => absurd (hr.symm.trans ha) (by simp),
    fun j l hjl hj hl ho => ?_, fun j hj x hx => ?_, h.disjoint, h.length, h.nodup, fun j hj => ?_, fun j hj => ?_⟩
  · by_cases hij : i = j
    · subst hij
      rw [hnew, hother l hjl] at *
      rw [hextent, Extent.overlaps_comm] at ho
      exact (htolerant l hl ho).2
    · by_cases hil : i = l
      · subst hil
        rw [hother j hij] at *
        rw [hnew, hextent] at ho
        exact (htolerant j hj ho).1
      · rw [hother j hij, hother l hil] at *
        exact h.apart j l hjl hj hl ho
  · by_cases hij : i = j
    · rw [← hij, hnew, hextent, Extent.overlaps_comm]; exact hqueue x hx
    · rw [hother j hij] at *; exact h.clear j hj x hx
  · rw [hother j (ne_of_mem_of_not_mem hj hnot).symm]; exact h.held j hj
  · by_cases hij : i = j
    · rw [← hij, hnew]; rfl
    · rw [hother j hij] at *; exact h.kind j hj

/-- A GRANTED lease of a part that RESET# does not hold. -/
theorem State.Guarded.grant {w : Work} (h : w.st.Guarded) (hr : w.st.resetAsserted = false) {i : RecordIndex}
    (hfree : (w.st.lease i).state = .free) {k : AcquireKind} {e : Extent} (hc : w.st.conflicts k e = false) (p : Port)
    (tag : CommandTag) (term : Nat) : (w.grant i p tag k e term).st.Guarded :=
  .respond (.onState (h.grantRecord hr hfree hc p term)) p tag _

theorem State.Guarded.freeTag {s : State} (h : s.Guarded) (p : Port) (tag : CommandTag) : (s.freeTag p tag).Guarded :=
  h.setPort p _

/-- One entry of a scan keeps the laws, and the part out of RESET# (R66). -/
theorem State.Guarded.scanEntry {w : Work} (h : w.st.Guarded) (hr : w.st.resetAsserted = false)
    (older : List WaitEntry) (e : WaitEntry) :
    (w.scanEntry older e).2.st.Guarded ∧ (w.scanEntry older e).2.st.resetAsserted = false := by
  have hphase : (w.scanEntry older e).2.st.resetAsserted = false := by
    unfold State.resetAsserted at hr ⊢
    rw [(w.scanEntry_frame older e).phase]
    exact hr
  refine ⟨?_, hphase⟩
  rcases w.scanEntry_cases older e with hs | ⟨a, hs⟩ | ⟨i, hfree, hc, -, -, -, hs⟩ <;> rw [hs]
  · exact h
  · exact .respond (.onState (h.freeTag _ _)) _ _ a
  · exact State.Guarded.grant (w := w.onState fun s => s.freeTag e.port e.tag) (h.freeTag _ _) hr
      (State.lowestFree_free hfree) hc _ _ _

/-- Out of RESET# anything may wait. -/
theorem State.Guarded.withQueue {s : State} (h : s.Guarded) (hr : s.resetAsserted = false) (q : List WaitEntry) :
    (s.withQueue q).Guarded :=
  ⟨h.blank, fun ha => absurd (hr.symm.trans ha) (by simp), h.apart, h.clear, h.disjoint, h.length, h.nodup, h.held,
    h.kind⟩

/-- A scan (R65, R66): with nothing waiting it changes nothing, and something waits only out of RESET#. -/
theorem State.Guarded.scan {w : Work} (h : w.st.Guarded) : w.scan.st.Guarded := by
  by_cases hw : w.st.waitQueue = []
  · rw [Work.scan_of_empty w hw]; exact h
  · have hr : w.st.resetAsserted = false := by
      by_contra ha
      exact hw (h.idle (by simpa using ha))
    obtain ⟨hg, hr'⟩ := Work.scanEntries_keeps (Q := fun x => x.st.Guarded ∧ x.st.resetAsserted = false)
      (fun x older e hx => hx.1.scanEntry hx.2 older e) w.st.waitQueue w [] ⟨h, hr⟩
    exact hg.withQueue hr' _

/-! ## Fences and the end of an event (R76, R146, R148) -/

theorem State.mem_fencedLeases {s : State} {p : Port} {i : RecordIndex} (h : i ∈ s.fencedLeases p) :
    (s.lease i).inForce = true := by
  simp only [State.fencedLeases, List.mem_filter, Bool.and_eq_true] at h
  exact h.2.1.1

/-- The records that a fence start takes a port off are live, and held ones stay held. -/
theorem State.Guarded.foldl_fenceOff {w : Work} (h : w.st.Guarded) (p : Port) (l : List RecordIndex)
    (hl : ∀ i ∈ l, (w.st.lease i).live = true) :
    (l.foldl (fun x i => x.onState (fun s => s.setLease i ((s.lease i).fenceOff p))) w).st.Guarded ∧
      (l.foldl (fun x i => x.onState (fun s => s.setLease i ((s.lease i).fenceOff p))) w).st.held = w.st.held := by
  refine (List.foldlRecOn (motive := fun x : Work => (x.st.Guarded ∧ x.st.held = w.st.held) ∧
    ∀ i ∈ l, (x.st.lease i).live = true) l _ ⟨⟨h, rfl⟩, hl⟩ ?_).1
  rintro x ⟨⟨hg, hheld⟩, hlive⟩ i hi
  obtain ⟨hsame, hstate⟩ := LeaseRecord.fenceOff_cases (x.st.lease i) p
  refine ⟨⟨hg.setLease (hsame.within fun _ => hlive i hi) fun hih => ?_, hheld⟩, fun j hj => ?_⟩
  · exact hsame.awaitsScrub (hstate.elim (·.trans (hg.held i hih).1) id) (hg.held i hih)
  · rw [Work.onState_st, State.lease_setLease]
    split
    · rw [LeaseRecord.live_iff]
      rcases hstate with hst | hst <;> rw [hst]
      · exact (LeaseRecord.live_iff _).1 (hlive i hi)
      · simp
    · exact hlive j hj

/-- The lease table's part of a fence start (R76). -/
theorem State.Guarded.fenceLeases {w : Work} (h : w.st.Guarded) (p : Port) : (w.fenceLeases p).st.Guarded := by
  have hforce : ∀ i ∈ w.st.fencedLeases p, (w.st.lease i).inForce = true := fun i => State.mem_fencedLeases
  obtain ⟨hg1, hheld1⟩ := h.foldl_fenceOff p (w.st.fencedLeases p) fun i hi => LeaseRecord.live_of_inForce (hforce i hi)
  unfold Work.fenceLeases
  extract_lets ids w1 done plain scrubbed w2 w3
  have hdone : ∀ i ∈ done, (w1.st.lease i).state = .draining ∧ i ∉ w1.st.held := fun i hi => by
    obtain ⟨hids, hd⟩ := List.mem_filter.1 hi
    refine ⟨(of_decide_eq_true hd).1, ?_⟩
    rw [hheld1]
    exact h.not_held (hforce i hids)
  have hnodup : done.Nodup := ((List.nodup_finRange 256).filter _).filter _
  obtain ⟨hg2, hothers⟩ := State.Guarded.foldl_retire plain w1 hg1 (hnodup.filter _)
    fun i hi => hdone i (List.mem_of_mem_filter hi)
  have hperm : (anyOrder scrubbed.length w2.st.choices scrubbed).Perm scrubbed := anyOrder_perm _ _ _
  have hscrubbed : ∀ i ∈ scrubbed, (w2.st.lease i).state = .draining ∧ i ∉ w2.st.held := fun i hi => by
    obtain ⟨hmem, hneeds⟩ := List.mem_filter.1 hi
    have hplain : i ∉ plain := fun hp => by
      have hno := (List.mem_filter.1 hp).2
      simp [hneeds] at hno
    obtain ⟨hlease, hheld⟩ := hothers i hplain
    obtain ⟨hd, hnot⟩ := hdone i hmem
    exact ⟨hlease ▸ hd, fun hm => hnot (hheld hm)⟩
  have hg3 : w3.st.Guarded := (State.Guarded.foldl_retire _ w2 hg2 (hperm.nodup_iff.2 (hnodup.filter _))
    fun i hi => hscrubbed i (hperm.mem_iff.1 hi)).1
  clear_value w3
  exact hg3.of_fields rfl rfl rfl rfl id

/-- The wait queue's part and the access path's part of a fence start. -/
theorem State.Guarded.leaveQueue {s : State} (h : s.Guarded) (p : Port) (f : WaitEntry → Bool) :
    (State.orphanSlots { s with waitQueue := s.waitQueue.filter f } p).Guarded :=
  h.of_fields rfl rfl rfl rfl fun hw => by
    show s.waitQueue.filter f = []
    rw [hw]
    rfl

theorem State.Guarded.fenceStart {w : Work} (h : w.st.Guarded) (p : Port) (c : FenceCause) (hello : Option HostId) :
    (w.fenceStart p c hello).st.Guarded := by
  rw [Work.fenceStart_st]
  have hport : (w.onState fun s => (s.setPort p ((s.port p).fence c hello)).setAlert (.portFenced p)).st.Guarded :=
    (h.setPort p _).setAlert _
  generalize w.onState (fun s => (s.setPort p ((s.port p).fence c hello)).setAlert (.portFenced p)) = w1 at hport ⊢
  exact (hport.fenceLeases p).leaveQueue p _

theorem State.Guarded.enterOnline {w : Work} (h : w.st.Guarded) (p : Port) (host : HostId) :
    (w.enterOnline p host).st.Guarded := (h.setPort p _).talks (w.enterOnline_eq p host).st

theorem State.Guarded.fenceEnd {w : Work} (h : w.st.Guarded) (p : Port) : (w.fenceEnd p).st.Guarded := by
  rcases w.fenceEnd_cases p with hr | ⟨-, -, hr⟩ | ⟨-, -, -, hr⟩ | ⟨host, -, -, -, hr⟩ <;> rw [hr]
  · exact h
  · exact h.setPort p _
  · exact h.setPort p _
  · exact h.enterOnline p host

theorem State.Guarded.settle {w : Work} (h : w.st.Guarded) : w.settle.Guarded :=
  Work.settle_keeps (P := State.Guarded) (fun _ _ hs => hs.of_fields rfl rfl rfl rfl id)
    (fun _ p c hello hs => hs.fenceStart p c hello) (fun _ hs => hs.scan) (fun _ p hs => hs.fenceEnd p) w h

theorem State.Guarded.done {w : Work} {t : State} (h : w.st.Guarded) (hd : w.done = .next t) : t.Guarded :=
  (Work.done_eq_next_iff w t).1 hd ▸ h.settle

end Sys2Proof.Machine
end

section
/-! The exclusion laws at a start-up: the accepted entries of a standing set do not overlap (R159), and the rebuilt
scrub queue is the rest of the pool (R101). -/

namespace Sys2Proof.Machine

open Sys2Proof.Safety

/-! ## The covered extents in order (R101) -/

theorem insertExtent_perm (e : Extent) (l : List Extent) : (insertExtent e l).Perm (e :: l) := by
  induction l with
  | nil => exact .refl _
  | cons x rest ih =>
    unfold insertExtent
    split
    · exact .refl _
    · exact (ih.cons x).trans (.swap e x rest)

theorem insertExtent_ordered (e : Extent) {l : List Extent} (h : l.Pairwise (fun x y => x.base ≤ y.base)) :
    (insertExtent e l).Pairwise (fun x y => x.base ≤ y.base) := by
  induction l with
  | nil => exact List.pairwise_singleton _ _
  | cons x rest ih =>
    obtain ⟨hx, hrest⟩ := List.pairwise_cons.1 h
    unfold insertExtent
    split
    · next hle =>
      refine List.pairwise_cons.2 ⟨fun y hy => ?_, h⟩
      rcases List.mem_cons.1 hy with rfl | hy
      · exact hle
      · exact hle.trans (hx y hy)
    · next hle =>
      refine List.pairwise_cons.2 ⟨fun y hy => ?_, ih hrest⟩
      rcases List.mem_cons.1 ((insertExtent_perm e rest).mem_iff.1 hy) with rfl | hy
      · exact (not_le.1 hle).le
      · exact hx y hy

theorem foldl_insertExtent : ∀ (l acc : List Extent), acc.Pairwise (fun x y => x.base ≤ y.base) →
    (l.foldl (fun l e => insertExtent e l) acc).Pairwise (fun x y => x.base ≤ y.base) ∧
      (l.foldl (fun l e => insertExtent e l) acc).Perm (l ++ acc) := by
  intro l
  induction l with
  | nil => exact fun acc h => ⟨h, .refl _⟩
  | cons e rest ih =>
    intro acc h
    obtain ⟨hord, hperm⟩ := ih (insertExtent e acc) (insertExtent_ordered e h)
    exact ⟨hord, (hperm.trans ((insertExtent_perm e acc).append_left rest)).trans List.perm_middle⟩

theorem State.coveredExtents_ordered (s : State) : s.coveredExtents.Pairwise (fun x y => x.base ≤ y.base) :=
  (foldl_insertExtent _ [] .nil).1

theorem State.coveredExtents_perm (s : State) :
    s.coveredExtents.Perm ((s.leases.toList.filter LeaseRecord.live).map LeaseRecord.extent) :=
  (foldl_insertExtent _ [] .nil).2.trans (.of_eq (List.append_nil _))

theorem State.extent_mem_coveredExtents {s : State} {i : RecordIndex} (h : (s.lease i).live = true) :
    (s.lease i).extent ∈ s.coveredExtents :=
  s.coveredExtents_perm.mem_iff.2 (List.mem_map_of_mem (List.mem_filter.2 ⟨s.mem_leases i, h⟩))

theorem State.length_coveredExtents_le (s : State) : s.coveredExtents.length ≤ 256 := by
  rw [s.coveredExtents_perm.length_eq, List.length_map]
  exact (List.length_filter_le _ _).trans_eq (by simp)

/-! ## The runs between them -/

theorem length_uncoveredRuns_le (g : Nat) : ∀ (l : List Extent) (start : Nat),
    (uncoveredRuns g start l).length ≤ l.length + 1 := by
  intro l
  induction l with
  | nil => intro start; unfold uncoveredRuns; split <;> simp
  | cons e rest ih =>
    intro start
    have := ih (max start (e.base + e.count))
    unfold uncoveredRuns
    rw [List.length_append, List.length_cons]
    split <;> simp <;> omega

theorem le_base_of_mem_uncoveredRuns (g : Nat) : ∀ (l : List Extent) (start : Nat),
    ∀ x ∈ uncoveredRuns g start l, start ≤ x.base := by
  intro l
  induction l with
  | nil =>
    intro start x hx
    unfold uncoveredRuns at hx
    split at hx
    · rw [List.mem_singleton.1 hx]
    · cases hx
  | cons e rest ih =>
    intro start x hx
    unfold uncoveredRuns at hx
    rcases List.mem_append.1 hx with hx | hx
    · split at hx
      · rw [List.mem_singleton.1 hx]
      · cases hx
    · exact (le_max_left _ _).trans (ih _ x hx)

/-- The runs of granules are pairwise disjoint. -/
theorem uncoveredRuns_disjoint (g : Nat) : ∀ (l : List Extent) (start : Nat),
    (uncoveredRuns g start l).Pairwise (fun x y => x.overlaps y = false) := by
  intro l
  induction l with
  | nil =>
    intro start
    unfold uncoveredRuns
    split
    · exact List.pairwise_singleton _ _
    · exact .nil
  | cons e rest ih =>
    intro start
    unfold uncoveredRuns
    refine List.pairwise_append.2 ⟨?_, ih _, fun x hx y hy => ?_⟩
    · split
      · exact List.pairwise_singleton _ _
      · exact .nil
    · have hbase := le_base_of_mem_uncoveredRuns g rest _ y hy
      split at hx
      · rw [List.mem_singleton.1 hx, Bool.eq_false_iff, ne_eq, Extent.overlaps_iff]
        dsimp only
        omega
      · cases hx

/-- The runs overlap none of the extents that they run between, taken lowest base first. -/
theorem uncoveredRuns_clear (g : Nat) : ∀ (l : List Extent) (start : Nat), l.Pairwise (fun x y => x.base ≤ y.base) →
    ∀ e ∈ l, 1 ≤ e.count → ∀ x ∈ uncoveredRuns g start l, e.overlaps x = false := by
  intro l
  induction l with
  | nil => exact fun _ _ e he => nomatch he
  | cons e rest ih =>
    intro start hord f hf hcount x hx
    obtain ⟨he, hrest⟩ := List.pairwise_cons.1 hord
    have hle : e.base ≤ f.base := by
      rcases List.mem_cons.1 hf with rfl | hf
      · exact le_rfl
      · exact he f hf
    unfold uncoveredRuns at hx
    rcases List.mem_append.1 hx with hx | hx
    · split at hx
      · rw [List.mem_singleton.1 hx, Bool.eq_false_iff, ne_eq, Extent.overlaps_iff]
        dsimp only
        omega
      · cases hx
    · rcases List.mem_cons.1 hf with rfl | hf
      · have hbase := le_base_of_mem_uncoveredRuns g rest _ x hx
        rw [Bool.eq_false_iff, ne_eq, Extent.overlaps_iff]
        omega
      · exact ih _ hrest f hf hcount x hx

/-! ## Accepted entries (R159) -/

/-- An accepted entry has granules, and overlaps no entry accepted before it. -/
theorem StandingEntry.accepted_extent {e : StandingEntry} {g : Nat} {before : List Extent}
    (h : e.verdict g before = .accepted) : e.count ≠ 0 ∧ ∀ x ∈ before, x.overlaps e.extent = false := by
  unfold StandingEntry.verdict at h
  split at h
  · cases h
  split at h
  · cases h
  next hcount =>
  split at h
  · cases h
  split at h
  · cases h
  split at h
  · cases h
  split at h
  · cases h
  next hover =>
  simp only [List.any_eq_true, not_exists, not_and, Bool.not_eq_true] at hover
  exact ⟨hcount, hover⟩

/-- Two accepted entries do not overlap. -/
theorem State.accepted_apart {s : State} {m n : EntryNumber} (hmn : m ≠ n) (hm : s.verdictOn m = .accepted)
    (hn : s.verdictOn n = .accepted) : s.standingSet[m].extent.overlaps s.standingSet[n].extent = false := by
  have hlt : ∀ a b : EntryNumber, a < b → s.verdictOn a = .accepted → s.verdictOn b = .accepted →
      s.standingSet[a].extent.overlaps s.standingSet[b].extent = false := fun a b hab ha hb => by
    obtain ⟨before, hv, hbefore⟩ := s.verdictOn_eq b
    exact (StandingEntry.accepted_extent (hv.symm.trans hb)).2 _ ((hbefore _).2 ⟨a, hab, ha, rfl⟩)
  rcases lt_or_gt_of_ne hmn with h | h
  · exact hlt m n h hm hn
  · rw [Extent.overlaps_comm]; exact hlt n m h hn hm

/-- A live record after instantiation is the standing lease of an accepted entry, each in a record of its own. -/
theorem State.Instantiated.of_live {s u : State} (h : s.Instantiated 16 u) (hfree : ∀ i, (s.lease i).state = .free)
    {i : RecordIndex} (hl : (u.lease i).live = true) : ∃ n : EntryNumber, s.verdictOn n = .accepted ∧
      s.recordFor n = i ∧ u.lease i = s.standingRecord i n s.standingSet[n] := by
  by_contra hn
  push Not at hn
  have hsame : u.lease i = s.lease i := h.others i fun n hn16 ha hi =>
    hn n ha hi (hi ▸ h.placed n hn16 ha)
  rw [hsame, LeaseRecord.live_iff] at hl
  exact hl (hfree i)

/-! ## Start-up -/

/-- A part with no lease, nothing held and an empty scrub queue, in which nothing waits. -/
theorem State.guarded_of_blank {s : State} (hl : ∀ i, (s.lease i).state = .free) (hh : s.held = [])
    (hq : s.scrubQueue = []) (hw : s.waitQueue = []) : s.Guarded := by
  have hdead : ∀ i, (s.lease i).live ≠ true := fun i hi => (LeaseRecord.live_iff _).1 hi (hl i)
  refine ⟨fun _ => hl, fun _ => hw, fun i _ _ hi => absurd hi (hdead i), fun i hi => absurd hi (hdead i), ?_, ?_, ?_,
    ?_, fun i hi => absurd hi (hdead i)⟩
  · rw [hq]; exact .nil
  · rw [hq]; exact Nat.zero_le _
  · rw [hh]; exact .nil
  · rw [hh]; exact fun i hi => nomatch hi

/-- Steps 4 to 6 of a start-up of a part with no lease (R101, R159, R160). -/
theorem State.guarded_startedUp {s : State} (hfree : ∀ i, (s.lease i).state = .free) (hh : s.held = [])
    (powerOn : Bool) : (startedUp s powerOn).Guarded := by
  have hinst := State.instantiate_instantiated hfree
  have hlive : ∀ i, ((startedUp s powerOn).lease i).live = true → ∃ n : EntryNumber, s.verdictOn n = .accepted ∧
      s.recordFor n = i ∧ (startedUp s powerOn).lease i = s.standingRecord i n s.standingSet[n] :=
    fun i => hinst.of_live hfree
  have hqueue : (startedUp s powerOn).scrubQueue = [] ∨ ∃ g,
      (startedUp s powerOn).scrubQueue = uncoveredRuns g 0 s.instantiate.coveredExtents := by
    unfold startedUp State.rebuildScrubQueue
    dsimp only
    split
    · exact .inr ⟨_, rfl⟩
    · exact .inl rfl
  have hheld : (startedUp s powerOn).held = [] := (congrArg State.held (startedUp_eq s powerOn)).trans hh
  have hphase : ¬ (startedUp s powerOn).resetAsserted = true := by simp [startedUp, State.resetAsserted]
  refine ⟨fun ha => absurd ha hphase, fun ha => absurd ha hphase, fun i j hij hi hj ho => ?_, fun i hi x hx => ?_, ?_,
    ?_, hheld ▸ .nil, fun i hi => absurd (hheld ▸ hi) List.not_mem_nil, fun i hi => ?_⟩
  · obtain ⟨m, hm, rfl, hli⟩ := hlive i hi
    obtain ⟨n, hn, rfl, hlj⟩ := hlive j hj
    have hmn : m ≠ n := fun h => hij (congrArg _ h)
    rw [hli, hlj] at ho
    exact absurd ho (Bool.eq_false_iff.1 (State.accepted_apart hmn hm hn))
  · rcases hqueue with hq | ⟨g, hq⟩ <;> rw [hq] at hx
    · cases hx
    · obtain ⟨n, hn, -, hli⟩ := hlive i hi
      obtain ⟨before, hv, -⟩ := s.verdictOn_eq n
      have hcount : 1 ≤ ((startedUp s powerOn).lease i).extent.count := by
        rw [hli]
        exact Nat.one_le_iff_ne_zero.2 (StandingEntry.accepted_extent (hv.symm.trans hn)).1
      exact uncoveredRuns_clear g _ 0 (State.coveredExtents_ordered _) _
        (State.extent_mem_coveredExtents (s := s.instantiate) hi) hcount x hx
  · rcases hqueue with hq | ⟨g, hq⟩ <;> rw [hq]
    · exact .nil
    · exact uncoveredRuns_disjoint g _ 0
  · rcases hqueue with hq | ⟨g, hq⟩ <;> rw [hq]
    · exact Nat.zero_le _
    · have := length_uncoveredRuns_le g s.instantiate.coveredExtents 0
      have := s.instantiate.length_coveredExtents_le
      omega
  · obtain ⟨n, -, -, hli⟩ := hlive i hi
    rw [hli]
    rfl

end Sys2Proof.Machine
end

section
/-! Every event keeps the exclusion laws, row by row, and so does every step (R31, R32, R93). -/

namespace Sys2Proof.Machine

open Sys2Proof.Safety

/-! ## Arrivals and link events -/

theorem queueAccess_guarded {p : Port} {a : Access} {s t : State} (hs : s.Guarded) (h : queueAccess p a s = .next t) :
    t.Guarded := by
  unfold queueAccess at h
  split at h
  · split at h
    · rw [next_inj h]; exact hs.setPort p _
    · cases h
  · split at h
    · rw [next_inj h]; exact hs.setPort p _
    · cases h
  · rw [next_inj h]; exact hs
  · cases h

theorem queueCommand_guarded {p : Port} {c : CommandPacket} {s t : State} (hs : s.Guarded)
    (h : queueCommand p c s = .next t) : t.Guarded := by
  unfold queueCommand at h
  split at h
  · split at h
    · rw [next_inj h]; exact hs.setPort p _
    · cases h
  · rw [next_inj h]; exact hs
  · rw [next_inj h]; exact hs
  · cases h

theorem State.Guarded.deliver {w : Work} (h : w.st.Guarded) (p : Port) : (w.deliver p).st.Guarded := by
  rcases w.deliver_cases p with ⟨-, hr⟩ | ⟨e, rest, -, hr⟩ <;> rw [hr]
  · exact h
  · exact .send (.onState (h.setPort p _)) p _

theorem takeAck_guarded {p : Port} {q : BitVec 16} {s t : State} (hs : s.Guarded) (h : takeAck p q s = .next t) :
    t.Guarded := by
  unfold takeAck at h
  split at h
  · split at h
    · exact State.Guarded.done (.deliver (.onState (hs.setPort p _)) p) h
    · rw [next_inj h]; exact hs
  · rw [next_inj h]; exact hs
  · rw [next_inj h]; exact hs
  · cases h

theorem takeHello_guarded {p : Port} {host : HostId} {s t : State} (hs : s.Guarded)
    (h : takeHello p host s = .next t) : t.Guarded := by
  have hstart : (Work.start s).st.Guarded := hs
  unfold takeHello at h
  split at h
  · exact (hstart.enterOnline p host).done h
  · exact (hstart.fenceStart p .rehello (some host)).done h
  · rw [next_inj h]; exact hs.setPort p _
  · cases h

/-- An arrival keeps the laws when what its row does with the packet keeps them. -/
theorem arrival_guarded {p : Port} {k : RawPacket} {act : Packet → Option (Host.Outcome State Fault Refusal)}
    {s t : State} (hs : s.Guarded) (h : arrival p k act s = .next t)
    (hact : ∀ x o, act x = some o → o = .next t → t.Guarded) : t.Guarded := by
  obtain ⟨-, rfl | ⟨-, x, o, -, hx, ho⟩⟩ := arrival_next h
  · exact hs
  · exact hact x o hx ho

theorem execReadArrival_guarded {p : Port} {k : RawPacket} {s t : State} (hs : s.Guarded)
    (h : execReadArrival p k s = .next t) : t.Guarded :=
  arrival_guarded hs h fun x o hx ho => by
    split at hx
    · obtain rfl := Option.some.inj hx; exact queueAccess_guarded hs ho
    all_goals cases hx

theorem execWriteArrival_guarded {p : Port} {k : RawPacket} {s t : State} (hs : s.Guarded)
    (h : execWriteArrival p k s = .next t) : t.Guarded :=
  arrival_guarded hs h fun x o hx ho => by
    split at hx
    · obtain rfl := Option.some.inj hx; exact queueAccess_guarded hs ho
    all_goals cases hx

theorem execCommandArrival_guarded {p : Port} {k : RawPacket} {s t : State} (hs : s.Guarded)
    (h : execCommandArrival p k s = .next t) : t.Guarded :=
  arrival_guarded hs h fun x o hx ho => by
    split at hx
    · obtain rfl := Option.some.inj hx; exact queueCommand_guarded hs ho
    all_goals cases hx

theorem execNoticeAck_guarded {p : Port} {k : RawPacket} {s t : State} (hs : s.Guarded)
    (h : execNoticeAck p k s = .next t) : t.Guarded :=
  arrival_guarded hs h fun x o hx ho => by
    split at hx
    · obtain rfl := Option.some.inj hx; exact takeAck_guarded hs ho
    all_goals cases hx

theorem execHello_guarded {p : Port} {k : RawPacket} {s t : State} (hs : s.Guarded)
    (h : execHello p k s = .next t) : t.Guarded :=
  arrival_guarded hs h fun x o hx ho => by
    split at hx
    · obtain rfl := Option.some.inj hx; exact takeHello_guarded hs ho
    all_goals cases hx

theorem execLinkUp_guarded {p : Port} {s t : State} (hs : s.Guarded) (h : execLinkUp p s = .next t) :
    t.Guarded := by
  unfold execLinkUp at h
  split at h
  · cases h
  extract_lets r at h
  split at h
  · rw [next_inj h]; exact hs.setPort p _
  split at h
  · rw [next_inj h]; exact (hs.setPort p _).setAlert _
  · rw [next_inj h]; exact (hs.setPort p _).setAlert _
  · cases h
  · cases h

theorem execLinkLoss_guarded {p : Port} {s t : State} (hs : s.Guarded) (h : execLinkLoss p s = .next t) :
    t.Guarded := by
  unfold execLinkLoss at h
  split at h
  · cases h
  extract_lets _ r at h
  split at h
  · rw [next_inj h]; exact hs.setPort p _
  split at h
  · rw [next_inj h]; exact (hs.setPort p _).setAlert _
  · have hlost : (Work.start ((s.setPort p { r with linkFlag := false }).setAlert (.portLink p))).st.Guarded :=
      (hs.setPort p _).setAlert _
    exact (hlost.fenceStart p .linkLost none).done h
  · rw [next_inj h]; exact (hs.setPort p _).setAlert _
  · cases h

theorem execPacketSent_guarded {p : Port} {s t : State} (hs : s.Guarded) (h : execPacketSent p s = .next t) :
    t.Guarded := by
  unfold execPacketSent at h
  split at h
  · cases h
  · rw [next_inj h]; exact hs.setPort p _

/-! ## Commands (Chapter 3) -/

/-- A part with a port ONLINE is ready, and so not held by RESET#. -/
theorem State.Sound.not_resetAsserted {s : State} (h : s.Sound) {p : Port} (hc : (s.port p).commandQueue ≠ []) :
    s.resetAsserted = false := by
  have hr : s.phase = .ready := h.ready_of_not_down (p := p) (by simp [h.command_online hc])
  simp [State.resetAsserted, hr]

/-- A taking of a command keeps the laws when its row's action does, on a part that RESET# does not hold. -/
theorem takeCommand_guarded {act : Port → CommandTag → LeaseCommand → Option (Work → Work)} {s t : State}
    (hs : s.Guarded) (hsound : s.Sound) (h : takeCommand act s = .next t)
    (hact : ∀ p tag x f (w : Work), act p tag x = some f → w.st.Guarded → w.st.resetAsserted = false →
      (f w).st.Guarded) : t.Guarded := by
  obtain ⟨p, c, f, hnext, hf, rfl⟩ := takeCommand_next h
  have hne : (s.port p).commandQueue ≠ [] := fun hnil => by
    have := State.nextCommand_head hnext
    rw [hnil] at this
    cases this
  have htaken : (Work.start (s.commandTaken p)).st.Guarded := hs.of_fields rfl rfl rfl rfl id
  refine State.Guarded.settle ?_
  unfold withFreeTag
  split
  · exact htaken.respond _ _ _
  · exact hact p c.tag c.command f _ hf htaken (hsound.not_resetAsserted hne)

theorem notGrantable_guarded {w : Work} (h : w.st.Guarded) (hr : w.st.resetAsserted = false) {p : Port}
    {tag : CommandTag} {k : AcquireKind} {e : Extent} {term maxWait : Nat} :
    (notGrantable p tag k e term maxWait w).st.Guarded := by
  unfold notGrantable
  split
  · split <;> exact h.respond _ _ _
  · split
    · exact h.respond _ _ _
    · exact (h.setPort p _).withQueue hr _

theorem acquirePassed_guarded {w : Work} (h : w.st.Guarded) (hr : w.st.resetAsserted = false) {p : Port}
    {tag : CommandTag} {k : AcquireKind} {e : Extent} {term maxWait : Nat} :
    (acquirePassed p tag k e term maxWait w).st.Guarded := by
  unfold acquirePassed
  split
  · exact notGrantable_guarded h hr
  next hfree =>
  split
  · exact notGrantable_guarded h hr
  next i hi =>
  have hc := (Bool.or_eq_false_iff.1 (Bool.eq_false_iff.2 hfree)).1
  exact h.grant hr (State.lowestFree_free hi) hc p tag term

theorem acquire_guarded {w : Work} (h : w.st.Guarded) (hr : w.st.resetAsserted = false) {p : Port} {tag : CommandTag}
    {kind : Byte} {e : Extent} {term maxWait : Nat} : (acquire p tag kind e term maxWait w).st.Guarded := by
  rw [acquire_eq]
  cases firstFailure (acquireChecks w.st p kind e term maxWait) with
  | some a => exact h.respond p tag a
  | none =>
    exact acquirePassed_guarded h hr

theorem join_guarded {w : Work} (h : w.st.Guarded) {p : Port} {tag : CommandTag} {hd : Handle} {term : Nat} :
    (join p tag hd term w).st.Guarded := by
  have hjoined : (w.st.setLease hd.index (w.st.joinedRecord hd.index p term)).Guarded :=
    h.setLease_same rfl ⟨rfl, rfl, rfl⟩
  unfold join
  extract_lets r
  iterate 9
    split
    · exact h.respond _ _ _
  exact .respond (.onState hjoined) _ _ _

theorem renew_guarded {w : Work} (h : w.st.Guarded) {p : Port} {tag : CommandTag} {hd : Handle} {term : Nat} :
    (renew p tag hd term w).st.Guarded := by
  have hrenewed : (w.st.setLease hd.index (w.st.renewedRecord hd.index p term)).Guarded :=
    h.setLease_same rfl ⟨rfl, rfl, rfl⟩
  unfold renew
  extract_lets r
  iterate 6
    split
    · exact h.respond _ _ _
  exact .respond (.onState hrenewed) _ _ _

theorem release_guarded {w : Work} (h : w.st.Guarded) {p : Port} {tag : CommandTag} {hd : Handle} :
    (release p tag hd w).st.Guarded := by
  unfold release
  extract_lets r
  split
  · exact h.respond _ _ _
  next hres =>
  split
  · exact h.respond _ _ _
  next hdrain =>
  split
  · exact h.respond _ _ _
  split
  · exact h.respond _ _ _
  exact (h.removeHolder (State.inForce_of_resolves hres hdrain) p .released).respond _ _ _

theorem convert_guarded {w : Work} (h : w.st.Guarded) {p : Port} {tag : CommandTag} {hd : Handle} :
    (convert p tag hd w).st.Guarded := by
  unfold convert
  extract_lets r
  split
  · exact h.respond _ _ _
  next hres =>
  split
  · exact h.respond _ _ _
  next hdrain =>
  iterate 3
    split
    · exact h.respond _ _ _
  have hconverted : (w.st.setLease hd.index (w.st.lease hd.index).converted).Guarded :=
    h.setLease (.converted _) fun hi => absurd hi (h.not_held (State.inForce_of_resolves hres hdrain))
  exact .respond (.onState hconverted) _ _ _

/-- An entry of the queue leaves it with its tag. -/
theorem State.Guarded.leaveWaitQueue {s : State} (h : s.Guarded) (e : WaitEntry) : (s.leaveWaitQueue e).Guarded :=
  (h.freeTag e.port e.tag).of_fields rfl rfl rfl rfl fun hw => by
    rw [State.leaveWaitQueue]
    exact (congrArg (List.erase · e) hw).trans rfl

theorem cancel_guarded {w : Work} (h : w.st.Guarded) {p : Port} {tag : CommandTag} {target : Byte} :
    (cancel p tag target w).st.Guarded := by
  unfold cancel
  split
  · exact h.respond _ _ _
  · next e _ => exact .respond (.respond (.onState (h.leaveWaitQueue e)) _ _ _) _ _ _

theorem execAcquire_guarded {s t : State} (hs : s.Guarded) (hsound : s.Sound) (h : execAcquire s = .next t) :
    t.Guarded :=
  takeCommand_guarded hs hsound h fun p tag x f w hx hw hr => by
    split at hx
    · obtain rfl := Option.some.inj hx; exact acquire_guarded hw hr
    all_goals cases hx

theorem execJoin_guarded {s t : State} (hs : s.Guarded) (hsound : s.Sound) (h : execJoin s = .next t) :
    t.Guarded :=
  takeCommand_guarded hs hsound h fun p tag x f w hx hw _ => by
    split at hx
    · obtain rfl := Option.some.inj hx; exact join_guarded hw
    all_goals cases hx

theorem execRenew_guarded {s t : State} (hs : s.Guarded) (hsound : s.Sound) (h : execRenew s = .next t) :
    t.Guarded :=
  takeCommand_guarded hs hsound h fun p tag x f w hx hw _ => by
    split at hx
    · obtain rfl := Option.some.inj hx; exact renew_guarded hw
    all_goals cases hx

theorem execRelease_guarded {s t : State} (hs : s.Guarded) (hsound : s.Sound) (h : execRelease s = .next t) :
    t.Guarded :=
  takeCommand_guarded hs hsound h fun p tag x f w hx hw _ => by
    split at hx
    · obtain rfl := Option.some.inj hx; exact release_guarded hw
    all_goals cases hx

theorem execConvert_guarded {s t : State} (hs : s.Guarded) (hsound : s.Sound) (h : execConvert s = .next t) :
    t.Guarded :=
  takeCommand_guarded hs hsound h fun p tag x f w hx hw _ => by
    split at hx
    · obtain rfl := Option.some.inj hx; exact convert_guarded hw
    all_goals cases hx

theorem execCancel_guarded {s t : State} (hs : s.Guarded) (hsound : s.Sound) (h : execCancel s = .next t) :
    t.Guarded :=
  takeCommand_guarded hs hsound h fun p tag x f w hx hw _ => by
    split at hx
    · obtain rfl := Option.some.inj hx; exact cancel_guarded hw
    all_goals cases hx

theorem execLookup_guarded {s t : State} (hs : s.Guarded) (hsound : s.Sound) (h : execLookup s = .next t) :
    t.Guarded :=
  takeCommand_guarded hs hsound h fun p tag x f w hx hw _ => by
    split at hx
    · obtain rfl := Option.some.inj hx; exact hw.respond _ _ _
    all_goals cases hx

theorem execMalformedCommand_guarded {s t : State} (hs : s.Guarded) (hsound : s.Sound)
    (h : execMalformedCommand s = .next t) : t.Guarded :=
  takeCommand_guarded hs hsound h fun p tag x f w hx hw _ => by
    split at hx
    · obtain rfl := Option.some.inj hx; exact hw.respond _ _ _
    all_goals cases hx

/-! ## Deadlines -/

theorem execWaitDeadlineExpiry_guarded {p : Port} {tag : CommandTag} {s t : State} (hs : s.Guarded)
    (h : execWaitDeadlineExpiry p tag s = .next t) : t.Guarded := by
  unfold execWaitDeadlineExpiry at h
  split at h
  · cases h
  next e _ =>
  split at h
  · refine State.Guarded.done ?_ h
    exact .respond (.onState (State.Guarded.leaveWaitQueue hs e)) _ _ _
  · cases h

theorem execHolderExpiry_guarded {i : RecordIndex} {p : Port} {s t : State} (hs : s.Guarded)
    (h : execHolderExpiry i p s = .next t) : t.Guarded := by
  unfold execHolderExpiry at h
  split at h
  · cases h
  next hforce =>
  split at h
  · cases h
  split at h
  · have hstart : (Work.start s).st.Guarded := hs
    exact ((hstart.removeHolder (by simpa using hforce) p .expired).raise _ _ _).done h
  · cases h

theorem execNoticeDeadline_guarded {i : RecordIndex} {s t : State} (hs : s.Guarded)
    (h : execNoticeDeadline i s = .next t) : t.Guarded := by
  unfold execNoticeDeadline at h
  split at h
  · cases h
  next hstate =>
  split at h
  · cases h
  split at h
  · have hstart : (Work.start s).st.Guarded := hs
    have hforce : ((Work.start s).st.lease i).inForce = true :=
      (LeaseRecord.inForce_iff _).2 (.inr (not_not.1 hstate))
    exact (hstart.revokeAll hforce).done h
  · cases h

theorem execAckTimerExpiry_guarded {p : Port} {s t : State} (hs : s.Guarded)
    (h : execAckTimerExpiry p s = .next t) : t.Guarded := by
  have hstart : (Work.start s).st.Guarded := hs
  unfold execAckTimerExpiry at h
  split at h
  · split at h
    · split at h
      · exact State.Guarded.done (.send (.onState (hs.setPort p _)) p _) h
      · exact (hstart.fenceStart p .unresponsive none).done h
    · cases h
  · cases h

theorem execLeaseClockTick_guarded {s t : State} (hs : s.Guarded) (h : execLeaseClockTick s = .next t) :
    t.Guarded := by
  unfold execLeaseClockTick at h
  split at h <;> rw [next_inj h]
  · exact hs.of_fields rfl rfl rfl rfl id
  · exact hs

/-! ## Accesses (Chapter 7) -/

theorem State.Guarded.countAdmission {s : State} (h : s.Guarded) (i : RecordIndex) : (s.countAdmission i).Guarded :=
  h.setLease_same rfl ⟨rfl, rfl, rfl⟩

theorem takeRead_guarded {w : Work} (h : w.st.Guarded) {n : HostSlotNumber} {p : Port} {tag : ReadTag}
    {a : PoolAddress} {length : Nat} : (takeRead n p tag a length w).st.Guarded := by
  unfold takeRead
  split
  · next i _ =>
    have hslot : (w.st.setSlot n (some (w.st.admittedSlot p (.read tag) a length i))).Guarded :=
      h.of_fields rfl rfl rfl rfl id
    exact (hslot.countAdmission i).of_fields rfl rfl rfl rfl id
  · exact .send (.onState (h.setPort p _)) _ _

theorem takeWrite_guarded {w : Work} (h : w.st.Guarded) {n : HostSlotNumber} {p : Port} {a : PoolAddress}
    {length : BitVec 16} {data : List Byte} : (takeWrite n p a length data w).st.Guarded := by
  unfold takeWrite
  split
  · next i _ =>
    have hslot : (w.st.setSlot n (some (w.st.admittedSlot p .write a length.toNat i))).Guarded :=
      h.of_fields rfl rfl rfl rfl id
    exact (hslot.countAdmission i).of_fields rfl rfl rfl rfl id
  · exact .send (.onState (h.setPort p _)) _ _

theorem State.Guarded.accessTaken {s : State} (h : s.Guarded) (p : Port) :
    (Work.start (s.accessTaken p)).st.Guarded := h.of_fields rfl rfl rfl rfl id

theorem execReadTaking_guarded {s t : State} (hs : s.Guarded) (h : execReadTaking s = .next t) : t.Guarded := by
  unfold execReadTaking at h
  split at h
  · cases h
  split at h
  · exact (takeRead_guarded (hs.accessTaken _)).done h
  · cases h

theorem execWriteTaking_guarded {s t : State} (hs : s.Guarded) (h : execWriteTaking s = .next t) : t.Guarded := by
  unfold execWriteTaking at h
  split at h
  · cases h
  split at h
  · exact (takeWrite_guarded (hs.accessTaken _)).done h
  · cases h

/-- A lease that an occupied slot names is not drained, and so not held (R116). -/
theorem not_held_of_slot {s : State} (h : DrainLaw s) {n : HostSlotNumber} {x : HostSlot} (hx : s.slot n = some x) :
    x.lease ∉ s.held := by
  obtain ⟨hcount, -, -, hheld⟩ := h
  intro hi
  have hzero := (hcount x.lease).symm.trans (hheld x.lease hi).2
  have hmem : x ∈ (s.hostSlots.toList.filterMap id).filter (fun y => decide (y.lease = x.lease)) := by
    refine List.mem_filter.2 ⟨List.mem_filterMap.2 ⟨some x, ?_, rfl⟩, by simp⟩
    rw [← hx]
    exact List.getElem_mem _
  exact absurd (List.length_pos_of_mem hmem) (by rw [slotsNaming] at hzero; omega)

theorem State.Guarded.completeSlot {w : Work} (h : w.st.Guarded) {n : HostSlotNumber} {x : HostSlot}
    (hx : x.lease ∉ w.st.held) : (w.completeSlot n x).st.Guarded := by
  have hfreed : (w.onState (fun s => (s.setSlot n none).forget n)).st.Guarded := h.of_fields rfl rfl rfl rfl id
  have hdrained := hfreed.drainOne hx
  unfold Work.completeSlot
  extract_lets w'
  split
  · rw [Work.endFence_st]; exact hdrained
  · exact hdrained

/-- The answer to a READ changes a port alone. -/
theorem Work.answerRead_guarded {w : Work} (h : w.st.Guarded) (x : HostSlot) (tag : ReadTag) (status : ReadStatus)
    (data : List Byte) : (w.answerRead x tag status data).st.Guarded ∧
      (w.answerRead x tag status data).st.held = w.st.held := by
  unfold Work.answerRead
  split
  · exact ⟨h, rfl⟩
  · exact ⟨.send (.onState (h.setPort _ _)) _ _, by rw [(Work.send_talks _ _ _).st.eq]; rfl⟩

theorem State.Guarded.carriedOut {s : State} (h : s.Guarded) (n : HostSlotNumber) :
    (s.carriedOut n).Guarded ∧ (s.carriedOut n).held = s.held := by
  have hpool := (s.carriedOut_poolOnly n).eq
  refine ⟨h.of_fields ?_ ?_ ?_ ?_ fun hw => ?_, ?_⟩ <;> rw [hpool]
  exact hw

theorem execReadCompletion_guarded {n : HostSlotNumber} {e : Bool} {s t : State} (hs : s.Guarded) (hd : DrainLaw s)
    (h : execReadCompletion n e s = .next t) : t.Guarded := by
  unfold execReadCompletion at h
  split at h
  · cases h
  next x hx =>
  have hnot := not_held_of_slot hd hx
  split at h
  · next tag _ =>
    split at h
    · have hstart : (Work.start s).st.Guarded := hs
      have herror : ((Work.start s).poolError x.lease x.address).st.held = s.held := by
        show ((Work.raiseHolders _ _ _).st).held = _
        rw [(Work.raiseHolders_talks _ _ _).st.eq]
        rfl
      obtain ⟨hg, hheld⟩ := Work.answerRead_guarded (hstart.poolError x.lease x.address) x tag .poolError []
      exact (hg.completeSlot (by rw [hheld, herror]; exact hnot)).done h
    · obtain ⟨hc, hheld⟩ := hs.carriedOut n
      obtain ⟨hg, hheld'⟩ := Work.answerRead_guarded
        (w := (Work.start s).onState fun s => s.carriedOut n) hc x tag .ok
        (((Work.start s).onState fun s => s.carriedOut n).st.foundBytes n x)
      refine (hg.completeSlot ?_).done h
      rw [hheld', Work.onState_st, Work.start_st, hheld]
      exact hnot
  · cases h

theorem execWriteCompletion_guarded {n : HostSlotNumber} {s t : State} (hs : s.Guarded) (hd : DrainLaw s)
    (h : execWriteCompletion n s = .next t) : t.Guarded := by
  unfold execWriteCompletion at h
  split at h
  · cases h
  next x hx =>
  split at h
  · cases h
  · obtain ⟨hc, hheld⟩ := hs.carriedOut n
    refine State.Guarded.done (.completeSlot (.onState hc) ?_) h
    rw [Work.onState_st, Work.start_st, hheld]
    exact not_held_of_slot hd hx

/-! ## The scrub engine (R96, R97) -/

/-- The scrub queue made of fewer granules. -/
theorem State.Guarded.shrinkQueue {s : State} (h : s.Guarded) {e : Extent} {rest q : List Extent}
    (hq : s.scrubQueue = e :: rest) (hle : q = rest ∨ ∃ e' : Extent, q = e' :: rest ∧
      ∀ x : Extent, x.overlaps e = false → x.overlaps e' = false) : State.Guarded { s with scrubQueue := q } := by
  have hdis := h.disjoint
  have hclear := h.clear
  have hlen := h.length
  rw [hq] at hdis hclear hlen
  obtain ⟨he, hrest⟩ := List.pairwise_cons.1 hdis
  rw [List.length_cons] at hlen
  rcases hle with rfl | ⟨e', rfl, hover⟩
  · exact ⟨h.blank, h.idle, h.apart, fun i hi x hx => hclear i hi x (List.mem_cons_of_mem _ hx), hrest,
      (Nat.le_succ _).trans hlen, h.nodup, h.held, h.kind⟩
  · refine ⟨h.blank, h.idle, h.apart, fun i hi x hx => ?_, List.pairwise_cons.2 ⟨fun x hx => ?_, hrest⟩, hlen, h.nodup,
      h.held, h.kind⟩
    · rcases List.mem_cons.1 hx with rfl | hx
      · exact hover _ (hclear i hi e List.mem_cons_self)
      · exact hclear i hi x (List.mem_cons_of_mem _ hx)
    · rw [Extent.overlaps_comm]
      exact hover x ((Extent.overlaps_comm x e).trans (he x hx))

/-- A place free in the scrub queue goes to the first held retirement (R89, R97). -/
theorem State.Guarded.serveHeld {w : Work} (h : w.st.Guarded) (hlen : w.st.scrubQueue.length < 512) :
    w.serveHeld.st.Guarded := by
  unfold Work.serveHeld
  split
  · exact h
  · next i rest hheld =>
    have hnodup := h.nodup
    have hawait := h.held
    rw [hheld] at hnodup hawait
    obtain ⟨hnot, hrest⟩ := List.nodup_cons.1 hnodup
    have hi := hawait i List.mem_cons_self
    have hwaiting : State.Guarded { w.st with held := rest } :=
      ⟨h.blank, h.idle, h.apart, h.clear, h.disjoint, h.length, hrest,
        fun j hj => hawait j (List.mem_cons_of_mem _ hj), h.kind⟩
    exact hwaiting.scrubRecord hi.live hi.2 hnot hlen

theorem State.Guarded.shrinkHead {w : Work} (h : w.st.Guarded) (g : Nat) : (w.shrinkHead g).st.Guarded := by
  have hfilled : State.Guarded { w.st with scrubSlot := none, pool := w.st.pool.refill g .zeroed } :=
    h.of_fields rfl rfl rfl rfl id
  unfold Work.shrinkHead
  extract_lets w1
  split
  · exact hfilled
  · next e rest hq =>
    split
    · refine State.Guarded.serveHeld (.onState (hfilled.shrinkQueue hq (.inl rfl))) ?_
      have hlen := h.length
      rw [show w.st.scrubQueue = e :: rest from hq, List.length_cons] at hlen
      exact hlen
    · next hcount =>
      refine hfilled.shrinkQueue hq (.inr ⟨_, rfl, fun x hx => ?_⟩)
      rw [Bool.eq_false_iff, ne_eq, Extent.overlaps_iff] at hx ⊢
      dsimp only
      omega

theorem execZeroFillCompletion_guarded {s t : State} (hs : s.Guarded) (h : execZeroFillCompletion s = .next t) :
    t.Guarded := by
  unfold execZeroFillCompletion at h
  split at h
  · cases h
  next g _ =>
  have hstart : (Work.start s).st.Guarded := hs
  refine State.Guarded.done ?_ h
  rw [Work.onState_st, State.issueZeroFill_eq]
  exact (hstart.shrinkHead g).scan.of_fields rfl rfl rfl rfl id

/-! ## The service unit (Chapter 11) -/

/-- A request keeps the laws when its effects do. -/
theorem service_guarded {code : Byte} {act : Work → Work × ServiceResult × List Byte} {s t : State} (hs : s.Guarded)
    (h : service code act s = .next t) (hact : (act (.start s)).1.st.Guarded) : t.Guarded := by
  rcases service_next h with ⟨-, rfl⟩ | ⟨-, rfl⟩
  · exact hs
  · exact State.Guarded.settle (hact.of_fields rfl rfl rfl rfl id)

theorem report_guarded {code : Byte} {fields : State → List Byte} {s t : State} (hs : s.Guarded)
    (h : report code fields s = .next t) : t.Guarded := service_guarded hs h hs

theorem execBadFrame_guarded {l : List Byte} {s t : State} (hs : s.Guarded) (h : execBadFrame l s = .next t) :
    t.Guarded := by
  unfold execBadFrame at h
  split at h
  · exact service_guarded hs h hs
  · cases h

theorem execBadCommand_guarded {l : List Byte} {s t : State} (hs : s.Guarded) (h : execBadCommand l s = .next t) :
    t.Guarded := by
  unfold execBadCommand at h
  split at h
  · exact service_guarded hs h hs
  · cases h

theorem execAlertClear_guarded {b : BitVec 16} {s t : State} (hs : s.Guarded) (h : execAlertClear b s = .next t) :
    t.Guarded :=
  service_guarded hs h <| by
    split
    · exact hs.of_fields rfl rfl rfl rfl id
    · exact hs

theorem execAlertMask_guarded {b : BitVec 16} {s t : State} (hs : s.Guarded) (h : execAlertMask b s = .next t) :
    t.Guarded :=
  service_guarded hs h <| by
    split
    · exact hs.of_fields rfl rfl rfl rfl id
    · exact hs

theorem execRefusalClear_guarded {b : Byte} {s t : State} (hs : s.Guarded) (h : execRefusalClear b s = .next t) :
    t.Guarded :=
  service_guarded hs h <| by
    split
    · exact hs
    · exact hs.setPort _ _

theorem execPortReset_guarded {b : Byte} {s t : State} (hs : s.Guarded) (h : execPortReset b s = .next t) :
    t.Guarded :=
  service_guarded hs h <| by
    split
    · exact hs
    · dsimp only
      split
      · exact State.Guarded.fenceStart (w := .start s) hs _ .reset none
      · exact hs

theorem forceRevoke_guarded {w : Work} (h : w.st.Guarded) (hd : Handle) (grace : Nat) :
    (forceRevoke hd grace w).1.st.Guarded := by
  unfold forceRevoke
  extract_lets r
  split
  · exact h
  next hres =>
  split
  · exact h
  next hdrain =>
  have hforce : r.inForce = true := State.inForce_of_resolves hres hdrain
  split
  · exact h.revokeAll hforce
  split
  · split
    · exact h
    · exact h.giveNotice hforce _
  · exact h.giveNotice hforce _

theorem execForceRevoke_guarded {hd : Handle} {b : BitVec 16} {s t : State} (hs : s.Guarded)
    (h : execForceRevoke hd b s = .next t) : t.Guarded :=
  service_guarded hs h <| by
    split
    · exact hs
    · exact forceRevoke_guarded (w := .start s) hs hd b.toNat

theorem execFieldWrite_guarded {x : Selector} {v : BitVec 24} {s t : State} (hs : s.Guarded)
    (h : execFieldWrite x v s = .next t) : t.Guarded :=
  service_guarded hs h <| by
    split
    · exact hs
    split
    · exact hs
    dsimp only
    split <;> exact hs.of_fields rfl rfl rfl rfl id

theorem execProfileSave_guarded {b : Byte} {s t : State} (hs : s.Guarded) (h : execProfileSave b s = .next t) :
    t.Guarded :=
  service_guarded hs h <| by
    split
    · exact hs
    split
    · exact hs
    split
    · exact hs
    exact hs.of_fields rfl rfl rfl rfl id

theorem execProfileLoad_guarded {b : Byte} {s t : State} (hs : s.Guarded) (h : execProfileLoad b s = .next t) :
    t.Guarded :=
  service_guarded hs h <| by
    split
    · exact hs
    split
    · exact hs
    split
    · exact hs
    exact hs.of_fields rfl rfl rfl rfl id

theorem execBootSelect_guarded {b : Byte} {s t : State} (hs : s.Guarded) (h : execBootSelect b s = .next t) :
    t.Guarded :=
  service_guarded hs h <| by
    split
    · exact hs
    split
    · exact hs
    exact hs.of_fields rfl rfl rfl rfl id

theorem execNvOperationComplete_guarded {b : Bool} {s t : State} (hs : s.Guarded)
    (h : execNvOperationComplete b s = .next t) : t.Guarded := by
  unfold execNvOperationComplete at h
  split at h
  · cases h
  next o _ =>
  split at h <;> rw [next_inj h]
  · cases o <;> exact hs.of_fields rfl rfl rfl rfl id
  · exact hs.of_fields rfl rfl rfl rfl id

/-! ## Resets, start-up and readiness (Chapter 10) -/

theorem emptyRecord_free (g : BitVec 16) : (emptyRecord g).state = .free := rfl

/-- Steps 3 to 6 of a start-up of a part with no lease. -/
theorem State.guarded_captured {s : State} (hl : ∀ i, (s.lease i).state = .free) (hh : s.held = []) (f : Profile)
    (source : StartUpSource) (fallback : Option FallbackReason) (powerOn : Bool) :
    (startedUp (captured s f source fallback) powerOn).Guarded :=
  State.guarded_startedUp (s := captured s f source fallback) hl hh powerOn

theorem State.guarded_powerOnStartUp {s : State} (hl : ∀ i, (s.lease i).state = .free) (hh : s.held = []) :
    s.powerOnStartUp.Guarded := by
  rw [State.powerOnStartUp_eq, State.withFallback_eq]
  exact State.guarded_captured (s := { s with alertCauses := s.withFallback.alertCauses }) hl hh _ _ _ true

theorem execPowerOnReset_guarded {s t : State} (h : execPowerOnReset s = .next t) : t.Guarded := by
  have hfree : ∀ i, (s.powerOnBlank.lease i).state = .free := fun i => by
    rw [State.powerOnBlank_lease]; exact emptyRecord_free 0
  unfold execPowerOnReset at h
  split at h <;> rw [next_inj h]
  · exact State.guarded_of_blank hfree rfl rfl rfl
  · exact State.guarded_powerOnStartUp hfree rfl

theorem State.deviceResetBlocks_free (s : State) (i : RecordIndex) : (s.deviceResetBlocks.lease i).state = .free := by
  rw [State.deviceResetBlocks_lease]; exact emptyRecord_free _

theorem execDeviceReset_guarded {s t : State} (hs : s.Guarded) (h : execDeviceReset s = .next t) : t.Guarded := by
  unfold execDeviceReset at h
  split at h <;> rw [next_inj h]
  · exact hs
  · rw [State.deviceResetStartUp_eq]
    refine State.guarded_captured (State.deviceResetBlocks_free _) ?_ _ _ _ false
    rw [State.deviceResetBlocks_eq]

theorem execResetAssert_guarded {s t : State} (h : execResetAssert s = .next t) : t.Guarded := by
  unfold execResetAssert at h
  split at h
  · cases h
  · rw [next_inj h]
    refine State.guarded_of_blank s.deviceResetBlocks_free ?_ ?_ ?_ <;> rw [State.deviceResetBlocks_eq]

/-- A part that RESET# holds has no lease, so none held. -/
theorem State.Guarded.held_of_free {s : State} (h : s.Guarded) (hl : ∀ i, (s.lease i).state = .free) : s.held = [] :=
  List.eq_nil_iff_forall_not_mem.2 fun i hi => (LeaseRecord.live_iff _).1 (h.held i hi).live (hl i)

theorem execResetRelease_guarded {s t : State} (hs : s.Guarded) (h : execResetRelease s = .next t) : t.Guarded := by
  unfold execResetRelease at h
  split at h
  · next hp =>
    have hfree := hs.blank ((State.resetAsserted_iff s).2 (.inl hp))
    rw [next_inj h]
    exact State.guarded_powerOnStartUp hfree (hs.held_of_free hfree)
  · next hp =>
    have hfree := hs.blank ((State.resetAsserted_iff s).2 (.inr hp))
    rw [next_inj h, State.deviceResetStartUp_eq]
    exact State.guarded_captured hfree (hs.held_of_free hfree) _ _ _ false
  · cases h
  · cases h

theorem execBecomeReady_guarded {s t : State} (hs : s.Guarded) (h : execBecomeReady s = .next t) : t.Guarded := by
  unfold execBecomeReady at h
  split at h
  · next powerOn _ =>
    extract_lets s1 at h
    rw [next_inj h, State.issueZeroFill_eq]
    have hready : s1.Guarded :=
      hs.of_leases (t := s1) (by simp [s1, State.resetAsserted]) (fun _ => .refl _) rfl rfl hs.held id
    split
    · rw [State.linkAlerts_eq]; exact hready.of_fields rfl rfl rfl rfl id
    · exact hready.of_fields rfl rfl rfl rfl id
  all_goals cases h

/-! ## Every command and every step -/

theorem exec_guarded {c : Instr} {s t : State} (hs : s.Guarded) (hsound : s.Sound) (hd : DrainLaw s)
    (h : exec c s = .next t) : t.Guarded := by
  cases c with
  | readArrival p k => exact execReadArrival_guarded hs h
  | writeArrival p k => exact execWriteArrival_guarded hs h
  | commandArrival p k => exact execCommandArrival_guarded hs h
  | noticeAck p k => exact execNoticeAck_guarded hs h
  | hello p k => exact execHello_guarded hs h
  | linkUp p => exact execLinkUp_guarded hs h
  | linkLoss p => exact execLinkLoss_guarded hs h
  | packetSent p => exact execPacketSent_guarded hs h
  | acquire => exact execAcquire_guarded hs hsound h
  | join => exact execJoin_guarded hs hsound h
  | renew => exact execRenew_guarded hs hsound h
  | release => exact execRelease_guarded hs hsound h
  | convert => exact execConvert_guarded hs hsound h
  | cancel => exact execCancel_guarded hs hsound h
  | lookup => exact execLookup_guarded hs hsound h
  | malformedCommand => exact execMalformedCommand_guarded hs hsound h
  | waitDeadlineExpiry p tag => exact execWaitDeadlineExpiry_guarded hs h
  | holderExpiry n p => exact execHolderExpiry_guarded hs h
  | noticeDeadline n => exact execNoticeDeadline_guarded hs h
  | readTaking => exact execReadTaking_guarded hs h
  | writeTaking => exact execWriteTaking_guarded hs h
  | readCompletion slot poolError => exact execReadCompletion_guarded hs hd h
  | writeCompletion slot => exact execWriteCompletion_guarded hs hd h
  | zeroFillCompletion => exact execZeroFillCompletion_guarded hs h
  | ackTimerExpiry p => exact execAckTimerExpiry_guarded hs h
  | badFrame l => exact execBadFrame_guarded hs h
  | badCommand l => exact execBadCommand_guarded hs h
  | identify => exact report_guarded hs (show execIdentify s = .next t from h)
  | status => exact report_guarded hs (show execStatus s = .next t from h)
  | alertRead => exact report_guarded hs (show execAlertRead s = .next t from h)
  | waitRead => exact report_guarded hs (show execWaitRead s = .next t from h)
  | scrubRead => exact report_guarded hs (show execScrubRead s = .next t from h)
  | alertClear causes => exact execAlertClear_guarded hs h
  | alertMask mask => exact execAlertMask_guarded hs h
  | portStatus port =>
    exact service_guarded hs (show execPortStatus port s = .next t from h) (by split <;> exact hs)
  | refusalClear port => exact execRefusalClear_guarded hs h
  | portReset port => exact execPortReset_guarded hs h
  | leaseRead index =>
    exact service_guarded hs (show execLeaseRead index s = .next t from h) (by split <;> exact hs)
  | leaseNext granule =>
    exact service_guarded hs (show execLeaseNext granule s = .next t from h) (by split <;> exact hs)
  | forceRevoke hd grace => exact execForceRevoke_guarded hs h
  | deviceReset => exact execDeviceReset_guarded hs h
  | fieldRead x => exact service_guarded hs (show execFieldRead x s = .next t from h) (by split <;> exact hs)
  | fieldWrite x value => exact execFieldWrite_guarded hs h
  | profileSave slot => exact execProfileSave_guarded hs h
  | profileLoad slot => exact execProfileLoad_guarded hs h
  | bootSelect slot => exact execBootSelect_guarded hs h
  | nvOperationComplete agrees => exact execNvOperationComplete_guarded hs h
  | powerOnReset => exact execPowerOnReset_guarded h
  | resetAssert => exact execResetAssert_guarded h
  | resetRelease => exact execResetRelease_guarded hs h
  | becomeReady => exact execBecomeReady_guarded hs h
  | leaseClockTick => exact execLeaseClockTick_guarded hs h

theorem step_guarded {s t : State} (hs : s.Guarded) (hsound : s.Sound) (hd : DrainLaw s) (h : step s = .next t) :
    t.Guarded := by
  unfold step at h
  split at h
  · rw [next_inj h]; exact hs
  · next c rest _ =>
    have hrest : s.Lawfully { s with pending := rest } := .of_fields rfl rfl rfl rfl rfl rfl rfl rfl rfl rfl
    exact exec_guarded (s := { s with pending := rest }) (hs.of_fields rfl rfl rfl rfl id) (hrest.st.sound hsound) hd h

/-- While RESET# holds a sound part no port is ONLINE, so nothing waits (R63). -/
theorem State.Sound.waitQueue_of_resetAsserted {s : State} (h : s.Sound) (hr : s.resetAsserted = true) :
    s.waitQueue = [] := by
  refine List.eq_nil_iff_forall_not_mem.2 fun e he => ?_
  have hready : s.phase = .ready := h.ready_of_not_down (p := e.port) (by simp [h.entry_online he])
  simp [State.resetAsserted, hready] at hr

/-- Settles O59: every event keeps the laws in the form of `State.Guarded`, to which the laws of drains, of ports and of
links give what is missing. -/
theorem stepKeepsExclusion : Obligations.StepKeepsExclusion := by
  intro s t hdrain hlink hport hexcl h
  have hsound : s.Sound := ⟨hlink, hport⟩
  have hs : s.Guarded := s.guarded_iff.2
    ⟨hexcl, fun i hi => (hdrain.2.2.2 i hi).1, hsound.waitQueue_of_resetAsserted⟩
  exact (t.guarded_iff.1 (step_guarded hs hsound hdrain h)).1

end Sys2Proof.Machine
end

section
/-! The outcome of an ACQUIRE that passes its checks and cannot be granted (R34, R48, R64). -/

namespace Sys2Proof.Machine

open Sys2Proof.Safety

theorem State.lowestFree_eq_none {s : State} (h : ∀ i, (s.lease i).state ≠ .free) : s.lowestFree = none :=
  List.find?_eq_none.2 fun i _ => by simpa using h i

/-- An ACQUIRE that conflicts, is blocked, or finds no FREE record is not grantable (R48). -/
theorem acquirePassed_notGrantable {p : Port} {tag : CommandTag} {k : AcquireKind} {e : Extent} {term maxWait : Nat}
    {w : Work} (h : (w.st.conflicts k e || blocked w.st.waitQueue e) = true ∨ ∀ i, (w.st.lease i).state ≠ .free) :
    acquirePassed p tag k e term maxWait w = notGrantable p tag k e term maxWait w := by
  unfold acquirePassed
  rcases h with h | h
  · rw [if_pos h]
  · rw [State.lowestFree_eq_none h]
    split <;> rfl

theorem waitFull_iff (s : State) (p : Port) : s.waitFull p = true ↔
    32 ≤ s.waitQueue.length ∨ 4 ≤ (s.waitQueue.filter (fun e => decide (e.port = p))).length := decide_eq_true_iff

/-- An ACQUIRE that does not wait is answered with what stands in its way. -/
theorem notGrantable_of_no_wait (p : Port) (tag : CommandTag) (k : AcquireKind) (e : Extent) (term : Nat) (w : Work) :
    notGrantable p tag k e term 0 w =
      w.respond p tag (if w.st.conflicts k e || blocked w.st.waitQueue e then .deniedConflict else .noRecord) := by
  unfold notGrantable
  rw [if_pos rfl]
  split <;> rfl

theorem notGrantable_of_full {p : Port} {w : Work} {maxWait : Nat} (hm : maxWait ≠ 0) (hf : w.st.waitFull p = true)
    (tag : CommandTag) (k : AcquireKind) (e : Extent) (term : Nat) :
    notGrantable p tag k e term maxWait w = w.respond p tag .waitFull := by
  unfold notGrantable
  rw [if_neg hm, if_pos hf]

theorem notGrantable_of_place {p : Port} {w : Work} {maxWait : Nat} (hm : maxWait ≠ 0) (hf : w.st.waitFull p ≠ true)
    (tag : CommandTag) (k : AcquireKind) (e : Extent) (term : Nat) :
    notGrantable p tag k e term maxWait w =
      w.onState (fun s => s.enterWaitQueue ⟨p, tag, k, e.base, e.count, term, s.after maxWait⟩) := by
  unfold notGrantable
  rw [if_neg hm, if_neg hf]

/-- Settles O17: an ACQUIRE that is not grantable (`acquirePassed_notGrantable`) does not wait, finds the queue full, or
joins it. -/
theorem acquireWaits : Obligations.AcquireWaits := by
  intro s p tag kind b n t m k stuck hnext hroom hpass hk hstuck hway
  have hroom' := room_commandTaken hroom
  have hway' : ((s.commandTaken p).conflicts k ⟨b.toNat, n.toNat⟩ ||
      blocked (s.commandTaken p).waitQueue ⟨b.toNat, n.toNat⟩) = true ∨
        ∀ i, ((s.commandTaken p).lease i).state ≠ .free := hway.imp_left (hstuck.symm.trans ·)
  have hfull : ((Work.start (s.commandTaken p)).st.waitFull p = true) ↔ _ := waitFull_iff s p
  have hexec : exec .acquire s = .next
      (notGrantable p tag k ⟨b.toNat, n.toNat⟩ t.toNat m.toNat (.start (s.commandTaken p))).settle := by
    rw [execAcquire_free hnext, acquire_eq, Work.start_st, acquireChecks_commandTaken, hpass, Option.elim_none, ← hk,
      acquirePassed_notGrantable hway']
  have hwait : m ≠ 0 → m.toNat ≠ 0 := fun h h0 => h (BitVec.eq_of_toNat_eq h0)
  refine ⟨fun h0 => ?_, fun h0 hf => ?_, fun h0 hlen hfour => ?_⟩
  · have hzero : m.toNat = 0 := congrArg BitVec.toNat h0
    rw [hexec, hzero, notGrantable_of_no_wait, Work.settle_respond _ _ hroom', hstuck]
    rfl
  · rw [hexec, notGrantable_of_full (hwait h0) (hfull.2 hf), Work.settle_respond _ _ hroom']
  · rw [hexec, notGrantable_of_place (hwait h0) fun hf => (hfull.1 hf).elim (by omega) (by omega)]
    have htags : ((s.commandTaken p).port p).commandTags = (s.port p).commandTags := by simp
    rw [← htags]
    rfl

end Sys2Proof.Machine
end

section
/-! The outcomes of a taking of an access (R37, R107, R108, R110, R111, R121): its checks in their order, then the
admission lookup in its own. -/

namespace Sys2Proof.Machine

open Sys2Proof.Safety

/-! ## The admission lookup (R37) -/

theorem Extent.covers_iff_le (a : Extent) (g : Nat) : a.covers g = true ↔ a.base ≤ g ∧ g ≤ a.base + a.count - 1 :=
  decide_eq_true_iff

theorem Right.suffices_iff (r : Right) (k : AccessKind) : r.suffices k = true ↔ (k = .write → r = .readWrite) := by
  cases r <;> cases k <;> simp [Right.suffices]

theorem State.coversInForce_iff (s : State) (i : RecordIndex) (g : Nat) :
    ((s.lease i).inForce && (s.lease i).extent.covers g) = true ↔ CoversInForce s i g := by
  rw [Bool.and_eq_true, LeaseRecord.inForce_iff, Extent.covers_iff_le]
  rfl

theorem State.admits_iff (s : State) (i : RecordIndex) (p : Port) (k : AccessKind) (g : Nat) :
    (s.lease i).admits p k g = true ↔ Admits s i p k g := by
  unfold LeaseRecord.admits
  rw [Bool.and_eq_true, State.coversInForce_iff]
  simp only [List.any_eq_true, Bool.and_eq_true, decide_eq_true_eq, Right.suffices_iff]

theorem State.heldForReading_iff (s : State) (p : Port) (g : Nat) :
    s.leases.toList.any (fun r => r.inForce && r.extent.covers g &&
      r.holders.any (fun h => decide (h.port = p ∧ h.right = .read))) = true ↔ HeldForReading s p g := by
  rw [State.any_leases]
  refine exists_congr fun i => ?_
  rw [Bool.and_eq_true, State.coversInForce_iff]
  simp only [List.any_eq_true, decide_eq_true_eq]

theorem State.drainingOver_iff (s : State) (g : Nat) :
    s.leases.toList.any (fun r => decide (r.state = .draining) && r.extent.covers g) = true ↔ DrainingOver s g := by
  rw [State.any_leases]
  refine exists_congr fun i => ?_
  rw [Bool.and_eq_true, decide_eq_true_eq, Extent.covers_iff_le]
  rfl

theorem State.liveOver_iff (s : State) (g : Nat) :
    s.leases.toList.any (fun r => r.coversLive g) = true ↔ LiveOver s g := by
  rw [State.any_leases]
  refine exists_congr fun i => ?_
  unfold LeaseRecord.coversLive
  rw [Bool.and_eq_true, LeaseRecord.live_iff, Extent.covers_iff_le]
  rfl

/-- The lookup admits under the lowest-index lease that admits. -/
theorem State.admission_of_admits {s : State} {p : Port} {k : AccessKind} {g : Nat} {i : RecordIndex}
    (hi : Admits s i p k g) (hlow : ∀ j, j < i → ¬ Admits s j p k g) : s.admission p k g = .admitted i := by
  have hfind : (List.finRange 256).find? (fun i => (s.lease i).admits p k g) = some i := by
    refine List.find?_eq_some_iff_getElem.2 ⟨(s.admits_iff i p k g).2 hi, i.val, by simp, by simp, fun j hj => ?_⟩
    have hno := mt (s.admits_iff ⟨j, by omega⟩ p k g).1 (hlow _ hj)
    simpa using hno
  unfold State.admission
  rw [hfind]

/-- Where no lease admits, the lookup gives its reason. -/
theorem State.admission_of_reason {s : State} {p : Port} {k : AccessKind} {g : Nat} {x : RefusalReason}
    (hno : ∀ i, ¬ Admits s i p k g) (hx : LookupReason s p k g x) : s.admission p k g = .refused x := by
  have hfind : (List.finRange 256).find? (fun i => (s.lease i).admits p k g) = none :=
    List.find?_eq_none.2 fun i _ => mt (s.admits_iff i p k g).1 (hno i)
  unfold State.admission
  unfold LookupReason at hx
  rw [hfind]
  simp only [Bool.and_eq_true, decide_eq_true_eq, State.heldForReading_iff, State.drainingOver_iff,
    State.liveOver_iff]
  split at hx
  · next h => rw [if_pos h, hx]
  next h =>
  rw [if_neg h]
  split at hx
  · next h => rw [if_pos h, hx]
  next h =>
  rw [if_neg h]
  split at hx
  · next h => rw [if_pos h, hx]
  · next h => rw [if_neg h, hx]

/-! ## The checks (R108) -/

theorem badLength_iff (a : PoolAddress) (length : Nat) : badLength a length = true ↔
    length < 8 ∨ 256 < length ∨ length % 8 ≠ 0 ∨ a.toNat % 8 ≠ 0 ∨
      (a.toNat + length - 1) / 2 ^ 20 ≠ a.toNat / 2 ^ 20 := decide_eq_true_iff

/-- An access is decided by the first check it fails, and by the lookup when it passes all. -/
theorem State.checkAccess_eq (s : State) (p : Port) (tag : Option ReadTag) (k : AccessKind) (a : PoolAddress)
    (length : Nat) : s.checkAccess p tag k a length =
      (firstFailure (accessChecks s p tag a.toNat length)).elim (s.admission p k (a.toNat / 2 ^ 20)) .refused := by
  simp only [State.checkAccess, accessChecks, firstFailure_cons_elim, firstFailure_nil_elim, decide_eq_true_eq,
    badLength_iff, granuleOf]
  exact if_congr Iff.rfl rfl (if_congr Iff.rfl rfl rfl)

/-- The checks look at nothing that the taking of the access changes. -/
theorem accessChecks_accessTaken (s : State) (p : Port) (tag : Option ReadTag) (address length : Nat) :
    accessChecks (s.accessTaken p) p tag address length = accessChecks s p tag address length := by
  simp [accessChecks]; rfl

theorem State.checkAccess_accessTaken (s : State) (p : Port) (tag : Option ReadTag) (k : AccessKind) (a : PoolAddress)
    (length : Nat) : (s.accessTaken p).checkAccess p tag k a length = s.checkAccess p tag k a length := by
  rw [State.checkAccess_eq, State.checkAccess_eq, accessChecks_accessTaken]
  rfl

/-- An access that fails a check, or passes them and finds no lease, is refused with that reason. -/
theorem State.checkAccess_refused {s : State} {p : Port} {tag : Option ReadTag} {k : AccessKind} {a : PoolAddress}
    {length : Nat} {x : RefusalReason}
    (h : firstFailure (accessChecks s p tag a.toNat length) = some x ∨
      (firstFailure (accessChecks s p tag a.toNat length) = none ∧
        (∀ i, ¬ Admits s i p k (a.toNat / 2 ^ 20)) ∧ LookupReason s p k (a.toNat / 2 ^ 20) x)) :
    s.checkAccess p tag k a length = .refused x := by
  rw [State.checkAccess_eq]
  rcases h with h | ⟨h, hno, hx⟩ <;> rw [h]
  · rfl
  · exact State.admission_of_reason hno hx

/-- An access that passes the checks and finds a lease is admitted under the lowest-index one. -/
theorem State.checkAccess_passed {s : State} {p : Port} {tag : Option ReadTag} {k : AccessKind} {a : PoolAddress}
    {length : Nat} {i : RecordIndex} (h : firstFailure (accessChecks s p tag a.toNat length) = none)
    (hi : Admits s i p k (a.toNat / 2 ^ 20)) (hlow : ∀ j, j < i → ¬ Admits s j p k (a.toNat / 2 ^ 20)) :
    s.checkAccess p tag k a length = .admitted i := by
  rw [State.checkAccess_eq, h]
  exact State.admission_of_admits hi hlow

/-! ## Takings (R106) -/

theorem State.freeSlot_eq_some {s : State} {n : HostSlotNumber} (hn : s.slot n = none)
    (hlow : ∀ m, m < n → s.slot m ≠ none) : s.freeSlot = some n := by
  refine List.find?_eq_some_iff_getElem.2 ⟨by simpa using hn, n.val, by simp, by simp, fun j hj => ?_⟩
  simpa using hlow ⟨j, by omega⟩ hj

theorem State.exists_freeSlot {s : State} (h : ∃ n, s.slot n = none) : ∃ n, s.freeSlot = some n := by
  obtain ⟨n, hn⟩ := h
  refine Option.isSome_iff_exists.1 (List.find?_isSome.2 ⟨n, List.mem_finRange n, by simpa using hn⟩)

theorem exec_readTaking {s : State} {n : HostSlotNumber} {p : Port} {tag : ReadTag} {a : PoolAddress} {l : BitVec 16}
    (hn : s.freeSlot = some n) (h : s.nextAccess = some (p, .read tag a l)) :
    exec .readTaking s = .next (takeRead n p tag a l.toNat (.start (s.accessTaken p))).settle := by
  show execReadTaking s = _
  unfold execReadTaking
  rw [hn, h]
  rfl

theorem exec_writeTaking {s : State} {n : HostSlotNumber} {p : Port} {a : PoolAddress} {l : BitVec 16}
    {d : List Byte} (hn : s.freeSlot = some n) (h : s.nextAccess = some (p, .write a l d)) :
    exec .writeTaking s = .next (takeWrite n p a l d (.start (s.accessTaken p))).settle := by
  show execWriteTaking s = _
  unfold execWriteTaking
  rw [hn, h]
  rfl

theorem recordRefusal_eq (s : State) (p : Port) (k : AccessKind) (a : PoolAddress) (x : RefusalReason) :
    recordRefusal (s.port p).refusal k a x = refusalAfter s p k a x := by
  unfold recordRefusal refusalAfter
  cases (s.port p).refusal <;> rfl

/-- The state after a refusal is noted at the port whose access was taken (R110, R121). -/
theorem State.noteRefusal_accessTaken (s : State) (p : Port) (k : AccessKind) (a : PoolAddress) (x : RefusalReason) :
    (s.accessTaken p).noteRefusal p k a x =
      (s.accessTaken p).setPort p { (s.accessTaken p).port p with refusal := refusalAfter s p k a x } := by
  have hport : ((s.accessTaken p).port p).refusal = (s.port p).refusal := by simp
  rw [State.noteRefusal, hport, recordRefusal_eq]

/-- A packet for a list with room is put at its end, and nothing else is due. -/
theorem Work.settle_send {u : State} {p : Port} (k : OutPacket) (h : Room u p 1) :
    ((Work.start u).send p k).settle = queued u p [k] := by
  rw [Work.send_of_room _ _ _ (by simpa using h)]
  exact Work.settle_quiet _

theorem room_noteRefusal {s : State} {p : Port} (h : Room s p 1) (k : AccessKind) (a : PoolAddress)
    (x : RefusalReason) : Room ((s.accessTaken p).noteRefusal p k a x) p 1 := by
  simpa [Room, State.noteRefusal] using h

/-- Settles O32: `State.checkAccess_refused`, and the refusal noted and answered. -/
theorem accessRefused : Obligations.AccessRefused := by
  intro s p x hfree hroom
  obtain ⟨n, hn⟩ := State.exists_freeSlot hfree
  refine ⟨fun tag a l hnext hx => ?_, fun a l d hnext hx => ?_⟩
  · have hcheck := (s.checkAccess_accessTaken p (some tag) .read a l.toNat).trans (State.checkAccess_refused hx)
    rw [exec_readTaking hn hnext, takeRead, Work.start_st, hcheck, ← State.noteRefusal_accessTaken]
    exact congrArg _ (Work.settle_send _ (room_noteRefusal hroom .read a x))
  · have hcheck := (s.checkAccess_accessTaken p none .write a l.toNat).trans (State.checkAccess_refused hx)
    rw [exec_writeTaking hn hnext, takeWrite, Work.start_st, hcheck, ← State.noteRefusal_accessTaken]
    exact congrArg _ (Work.settle_send _ (room_noteRefusal hroom .write a x))

/-- The host slot of an access whose taking has begun. -/
theorem State.admittedSlot_accessTaken (s : State) (p : Port) (k : SlotKind) (a : PoolAddress) (length : Nat)
    (i : RecordIndex) :
    (s.accessTaken p).admittedSlot p k a length i = ⟨p, (s.port p).epoch, k, a, length, i, false⟩ := by
  simp [State.admittedSlot]

/-- Settles O33: `State.checkAccess_passed`, and the lowest-numbered free host slot filled. -/
theorem accessAdmitted : Obligations.AccessAdmitted := by
  refine ⟨fun s n x => ⟨rfl, rfl, fun m => (s.slot_setSlot n m x).trans (if_congr eq_comm rfl rfl)⟩, ?_⟩
  intro s p n i hn hlow
  have hfree := State.freeSlot_eq_some hn hlow
  refine ⟨fun tag a l hnext hpass hi hfirst => ?_, fun a l d hnext hpass hi hfirst => ?_⟩
  · have hcheck := (s.checkAccess_accessTaken p (some tag) .read a l.toNat).trans
      (State.checkAccess_passed hpass hi hfirst)
    have htags : ((s.accessTaken p).port p).readTags = (s.port p).readTags := by simp
    rw [exec_readTaking hfree hnext, takeRead, Work.start_st, hcheck, ← htags, ← State.admittedSlot_accessTaken]
    rfl
  · have hcheck := (s.checkAccess_accessTaken p none .write a l.toNat).trans
      (State.checkAccess_passed hpass hi hfirst)
    rw [exec_writeTaking hfree hnext, takeWrite, Work.start_st, hcheck, ← State.admittedSlot_accessTaken]
    rfl

end Sys2Proof.Machine
end

section
/-! A scan entry by entry, and how an event settles (R65, R66, R128, R141, R146, R148; logs 13 and 18). -/

namespace Sys2Proof.Machine

open Sys2Proof.Safety

/-! ## One entry of a scan (R66) -/

theorem Work.scanEntries_of_leaves {w w' : Work} {older : List WaitEntry} {e : WaitEntry}
    (h : w.scanEntry older e = (false, w')) (rest : List WaitEntry) :
    w.scanEntries older (e :: rest) = w'.scanEntries older rest := by
  rw [Work.scanEntries, h]

theorem Work.scanEntries_of_stays {w w' : Work} {older : List WaitEntry} {e : WaitEntry}
    (h : w.scanEntry older e = (true, w')) (rest : List WaitEntry) :
    w.scanEntries older (e :: rest) = w'.scanEntries (older ++ [e]) rest := by
  rw [Work.scanEntries, h]

theorem Work.scanEntry_of_reach {w : Work} {e : WaitEntry}
    (h : reachFails (w.st.policy e.port) e.extent = true) (older : List WaitEntry) :
    w.scanEntry older e = (false, (w.onState (fun s => s.freeTag e.port e.tag)).respond e.port e.tag .deniedReach) :=
  if_pos (by rw [State.withinReach_eq, h]; rfl)

theorem Work.scanEntry_of_quota {w : Work} {e : WaitEntry} (hr : reachFails (w.st.policy e.port) e.extent = false)
    (h : quotaFails w.st e.port (w.st.policy e.port) e.count = true) (older : List WaitEntry) :
    w.scanEntry older e = (false, (w.onState (fun s => s.freeTag e.port e.tag)).respond e.port e.tag .deniedQuota) :=
  (if_neg (by simp [State.withinReach_eq, hr])).trans (if_pos (by rw [State.quotaAllows_eq, h]; rfl))

/-- An entry within its policy: it is granted the lowest FREE record, or stays. -/
theorem Work.scanEntry_of_policy {w : Work} {e : WaitEntry} (hr : reachFails (w.st.policy e.port) e.extent = false)
    (hq : quotaFails w.st e.port (w.st.policy e.port) e.count = false) (older : List WaitEntry) :
    w.scanEntry older e =
      if blocked older e.extent then (true, w)
      else
        match w.st.lowestFree with
        | none => (true, w)
        | some i =>
          if w.st.conflicts e.kind e.extent then (true, w)
          else (false, (w.onState (fun s => s.freeTag e.port e.tag)).grant i e.port e.tag e.kind e.extent e.term) :=
  (if_neg (by simp [State.withinReach_eq, hr])).trans (if_neg (by simp [State.quotaAllows_eq, hq]))

theorem Work.scanEntry_stays {w : Work} {e : WaitEntry} {older : List WaitEntry}
    (hr : reachFails (w.st.policy e.port) e.extent = false)
    (hq : quotaFails w.st e.port (w.st.policy e.port) e.count = false)
    (h : blocked older e.extent = true ∨ w.st.conflicts e.kind e.extent = true ∨ ∀ i, (w.st.lease i).state ≠ .free) :
    w.scanEntry older e = (true, w) := by
  rw [Work.scanEntry_of_policy hr hq]
  rcases h with h | h | h
  · exact if_pos h
  · rw [h]
    cases w.st.lowestFree <;> simp
  · rw [State.lowestFree_eq_none h]
    simp

theorem Work.scanEntry_granted {w : Work} {e : WaitEntry} {older : List WaitEntry} {i : RecordIndex}
    (hr : reachFails (w.st.policy e.port) e.extent = false)
    (hq : quotaFails w.st e.port (w.st.policy e.port) e.count = false) (hb : blocked older e.extent = false)
    (hc : w.st.conflicts e.kind e.extent = false) (hi : w.st.lowestFree = some i) : w.scanEntry older e =
      (false, (w.onState (fun s => s.freeTag e.port e.tag)).grant i e.port e.tag e.kind e.extent e.term) := by
  rw [Work.scanEntry_of_policy hr hq, hb, hi, hc]
  rfl

/-- The port record of an entry whose tag has left the outstanding ones (R43, R62). -/
def PortRecord.withoutTag (r : PortRecord) (tag : CommandTag) : PortRecord :=
  { r with commandTags := dropMember r.commandTags tag.val }

theorem State.port_freeTag_self (s : State) (p : Port) (tag : CommandTag) :
    (s.freeTag p tag).port p = (s.port p).withoutTag tag := (s.port_freeTag p p tag).trans (if_pos rfl)

/-- An entry that leaves with an answer, on a list with room: its tag is free and the answer at the list's end. -/
theorem Work.freeTag_respond {w : Work} {p : Port} (h : Room w.st p 1) (tag : CommandTag) (a : Answer) :
    (w.onState (fun s => s.freeTag p tag)).respond p tag a =
      { w with
        st := w.st.setPort p
          { (w.st.port p).withoutTag tag with outbound := (w.st.port p).outbound ++ [.response tag a] } } := by
  have hport := w.st.port_freeTag_self p tag
  have hlen : (((w.onState (fun s => s.freeTag p tag)).st.port p).outbound).length < 128 := by
    rw [Work.onState_st, hport]; exact h
  rw [Work.respond, Work.send_of_room _ _ _ hlen, Work.onState_st, hport]
  exact congrArg (fun t : State => { w with st := t }) (State.setPort_setPort w.st p _ _)

/-- A grant in a scan, on a list with room. -/
theorem Work.freeTag_grant {w : Work} {p : Port} (h : Room w.st p 1) (i : RecordIndex) (tag : CommandTag)
    (k : AcquireKind) (e : Extent) (term : Nat) :
    (w.onState (fun s => s.freeTag p tag)).grant i p tag k e term =
      { w with
        st := (w.st.setLease i (w.st.grantedRecord i p k e term)).setPort p
          { (w.st.port p).withoutTag tag with
            outbound := (w.st.port p).outbound ++
              [.response tag (.granted ⟨i, (w.st.lease i).generation + 1⟩ (w.st.holderDeadline term))] } } := by
  have hhandle : ((w.st.freeTag p tag).setLease i ((w.st.freeTag p tag).grantedRecord i p k e term)).handleOf i =
      ⟨i, (w.st.lease i).generation + 1⟩ := by
    rw [State.handleOf, State.lease_setLease, if_pos rfl]; rfl
  have hanswer := Work.freeTag_respond (w := w.onState fun s => s.setLease i (s.grantedRecord i p k e term)) h tag
    (.granted ⟨i, (w.st.lease i).generation + 1⟩ (w.st.holderDeadline term))
  rw [← hhandle] at hanswer
  rw [← hhandle]
  exact hanswer

/-- The record of a grant, its kind and its holder's right by the kind of the ACQUIRE (R17). -/
theorem State.grantedRecord_eq (s : State) (i : RecordIndex) (p : Port) (k : AcquireKind) (e : Extent) (term : Nat) :
    s.grantedRecord i p k e term =
      { generation := (s.lease i).generation + 1
        state := .active
        kind := some (match k with
          | .exclusive => .exclusive
          | .shared => .shared)
        standing := none
        written := decide (k = .exclusive)
        base := e.base
        count := e.count
        holders :=
          [⟨p, match k with
            | .exclusive => .readWrite
            | .shared => .read, term, s.holderDeadline term⟩]
        creator := some p
        notice := none
        revokeCause := none
        drainCount := 0
        damage := none
        retireHeld := false } := by
  cases k <;> rfl

/-! ## The end of an event (R65, R128, R141, R146, R148) -/

/-- Nothing is due. -/
structure Work.Quiet (w : Work) : Prop where
  overflowed : w.overflowed = []
  ending : w.ending = []
  scanDue : w.scanDue = false

/-- The fences of overflowed ports, and then one scan where one is due. -/
def Work.fencedAndScanned (w : Work) : Work :=
  if w.fenceOverflowed.scanDue then w.fenceOverflowed.scan else w.fenceOverflowed

theorem Work.settleWithin_of_quiet {w : Work} (h : w.Quiet) : ∀ n, w.settleWithin n = w.st
  | 0 => rfl
  | _ + 1 => if_pos ⟨h.overflowed, h.ending, h.scanDue⟩

theorem Work.settleWithin_of_due {w : Work} (h : ¬ w.Quiet) (n : Nat) : w.settleWithin (n + 1) =
    if w.fencedAndScanned.overflowed = [] then w.fencedAndScanned.endFences.settleWithin n
    else w.fencedAndScanned.settleWithin n :=
  if_neg fun hq => h ⟨hq.1, hq.2.1, hq.2.2⟩

theorem Work.fencedAndScanned_scanDue (w : Work) : w.fencedAndScanned.scanDue = false := by
  unfold Work.fencedAndScanned
  split
  · rfl
  · next h => simpa using h

/-- With no port overflowed there is no fence to start. -/
theorem Work.fenceOverflowed_of_none {w : Work} (h : w.overflowed = []) : w.fenceOverflowed = w := by
  cases w with
  | mk st overflowed ending scanDue =>
    obtain rfl : overflowed = [] := h
    rfl

theorem Work.fencedAndScanned_of_quiet {w : Work} (h : w.Quiet) : w.fencedAndScanned = w := by
  unfold Work.fencedAndScanned
  rw [Work.fenceOverflowed_of_none h.overflowed, h.scanDue]
  rfl

theorem Work.send_due (w : Work) (p : Port) (k : OutPacket) : (w.send p k).scanDue = w.scanDue := by
  unfold Work.send Work.overflow
  extract_lets r
  split
  · rfl
  · split
    · split <;> rfl
    · rfl

/-- A fence end makes no scan due. -/
theorem Work.fenceEnd_due (w : Work) (p : Port) : (w.fenceEnd p).scanDue = w.scanDue := by
  rcases w.fenceEnd_cases p with h | ⟨-, -, h⟩ | ⟨-, -, -, h⟩ | ⟨host, -, -, -, h⟩ <;> rw [h]
  · rfl
  · rfl
  · exact Work.send_due _ _ _

/-- After the fence ends of an event no other is due, and no scan that was not. -/
theorem Work.endFences_due (w : Work) : w.endFences.ending = [] ∧ w.endFences.scanDue = w.scanDue :=
  foldl_keeps (Q := fun x : Work => x.ending = [] ∧ x.scanDue = w.scanDue) Work.fenceEnd
    (fun x p hx => ⟨(x.fenceEnd_moved p).ending.trans hx.1, (x.fenceEnd_due p).trans hx.2⟩) w.ending
    { w with ending := [] } ⟨rfl, rfl⟩

theorem Work.endFences_quiet {w : Work} (hd : w.scanDue = false) (h : w.endFences.overflowed = []) :
    w.endFences.Quiet := ⟨h, w.endFences_due.1, w.endFences_due.2.trans hd⟩

theorem Work.endFences_of_quiet {w : Work} (h : w.Quiet) : w.endFences = w := by
  cases w with
  | mk st overflowed ending scanDue =>
    obtain rfl : ending = [] := h.ending
    rfl

/-- An event whose fences and scan overflow no port settles with its fence ends. -/
theorem Work.settleWithin_of_ends {w : Work} (h : w.fencedAndScanned.overflowed = [])
    (he : w.fencedAndScanned.endFences.overflowed = []) (n : Nat) :
    w.settleWithin (n + 1) = w.fencedAndScanned.endFences.st := by
  by_cases hq : w.Quiet
  · rw [Work.settleWithin_of_quiet hq, Work.fencedAndScanned_of_quiet hq, Work.endFences_of_quiet hq]
  · rw [Work.settleWithin_of_due hq, if_pos h,
      Work.settleWithin_of_quiet (Work.endFences_quiet w.fencedAndScanned_scanDue he)]

/-- One whose scan overflows ports goes on with their fences and one more scan. -/
theorem Work.settleWithin_of_overflow {w : Work} (h : w.fencedAndScanned.overflowed ≠ []) (n : Nat) :
    w.settleWithin (n + 1) = w.fencedAndScanned.settleWithin n := by
  have hq : ¬ w.Quiet := fun hq => h (by rw [Work.fencedAndScanned_of_quiet hq]; exact hq.overflowed)
  rw [Work.settleWithin_of_due hq, if_neg h]

/-- An event with a scan alone due settles in that scan. -/
theorem Work.settle_scan {s : State} {v : Work} (hv : v = (⟨s, [], [], true⟩ : Work).scan) (ho : v.overflowed = []) :
    (⟨s, [], [], true⟩ : Work).settle = v.st := by
  have hround : (⟨s, [], [], true⟩ : Work).fencedAndScanned = v := by
    unfold Work.fencedAndScanned
    rw [Work.fenceOverflowed_of_none rfl, hv]
    rfl
  have hquiet : v.Quiet := ⟨ho, by rw [hv]; exact (Work.scan_frame _).ending, by rw [hv]; rfl⟩
  have hends := Work.endFences_of_quiet hquiet
  exact (Work.settleWithin_of_ends (by rw [hround, ho]) (by rw [hround, hends, ho]) 7).trans (by rw [hround, hends])

/-- An event with a fence end alone due settles in that fence end. -/
theorem Work.settle_fenceEnd {s : State} {p : Port} {v : Work} (hv : v = (Work.start s).fenceEnd p)
    (ho : v.overflowed = []) : (⟨s, [], [p], false⟩ : Work).settle = v.st := by
  have hround : (⟨s, [], [p], false⟩ : Work).fencedAndScanned = ⟨s, [], [p], false⟩ := by
    unfold Work.fencedAndScanned
    rw [Work.fenceOverflowed_of_none rfl]
    rfl
  have hends : (⟨s, [], [p], false⟩ : Work).endFences = v := hv.symm
  exact (Work.settleWithin_of_ends (by rw [hround]) (by rw [hround, hends, ho]) 7).trans (by rw [hround, hends])

/-- Settles O25: an entry by `Work.scanEntry_of_reach` and its siblings, the end of an event by
`Work.settleWithin_of_ends` and `Work.settleWithin_of_overflow`. -/
theorem scanOfOneEntry : Obligations.ScanOfOneEntry := by
  refine ⟨fun w older rest e r q hroom hq hr => ?_, fun w older => rfl, fun w v stay h => ?_, fun w s f => ⟨rfl, rfl⟩,
    Work.settle_quiet, fun s v => Work.settle_scan, fun s p v => Work.settle_fenceEnd, fun w f v hf hv => ?_⟩
  · obtain rfl : r = (w.st.port e.port).withoutTag e.tag := hr
    subst hq
    refine ⟨fun hreach => ?_, fun hreach hquota => ?_, fun hreach hquota hway => ?_,
      fun i d hreach hquota hb hc hfree hlow hd => ?_⟩
    · rw [Work.scanEntries_of_leaves (Work.scanEntry_of_reach hreach older), Work.freeTag_respond hroom]
      rfl
    · rw [Work.scanEntries_of_leaves (Work.scanEntry_of_quota hreach hquota older), Work.freeTag_respond hroom]
      rfl
    · exact Work.scanEntries_of_stays (Work.scanEntry_stays hreach hquota hway) rest
    · obtain rfl : d = w.st.holderDeadline e.term := hd
      rw [Work.scanEntries_of_leaves
        (Work.scanEntry_granted hreach hquota hb hc (State.lowestFree_eq_some hfree hlow)), Work.freeTag_grant hroom,
        State.grantedRecord_eq]
      rfl
  · unfold Work.scan
    rw [h]
  · have hround : w.fencedAndScanned = v := by rw [hv, hf]; rfl
    refine ⟨fun ho e he hoe => ?_, fun ho f' v' e hf' hv' ho' he hoe => ?_⟩
    · have hends : w.fencedAndScanned.endFences = e := by rw [hround, he]; rfl
      exact (Work.settleWithin_of_ends (by rw [hround, ho]) (by rw [hends, hoe]) 7).trans (by rw [hends])
    · have hround' : v.fencedAndScanned = v' := by rw [hv', hf']; rfl
      have hends : v.fencedAndScanned.endFences = e := by rw [hround', he]; rfl
      calc w.settle = w.fencedAndScanned.settleWithin 7 :=
            Work.settleWithin_of_overflow (by rw [hround]; exact ho) 7
        _ = v.fencedAndScanned.endFences.st := by
            rw [hround, Work.settleWithin_of_ends (by rw [hround', ho']) (by rw [hends, hoe])]
        _ = e.st := by rw [hends]

end Sys2Proof.Machine
end

section
/-! The port that is served next (R41, R106), and what becomes of a packet that arrives (R40, R104, R131, R139,
R180). -/

namespace Sys2Proof.Machine

open Sys2Proof.Safety

/-! ## Round robin (R41, R106) -/

/-- The ports in the order in which they are served. -/
theorem roundRobin_order (last : Port) (j : Nat) (hj : j < 4) :
    [last + 1, last + 2, last + 3, last][j] = last + 1 + ⟨j, hj⟩ := by
  revert last j
  decide

/-- A port's place in that order. -/
theorem eq_roundRobin_place (last p : Port) : last + 1 + (p - last - 1) = p := by
  revert last p
  decide

theorem roundRobin_place (last k : Port) : last + 1 + k - last - 1 = k := by
  revert last k
  decide

/-- The port served is the first in the order that has something waiting. -/
theorem roundRobin_eq_some {last p : Port} {waiting : Port → Bool} (hp : waiting p = true)
    (hbefore : ∀ q : Port, (q - last - 1).val < (p - last - 1).val → waiting q = false) :
    roundRobin last waiting = some p := by
  have hplace : [last + 1, last + 2, last + 3, last][(p - last - 1).val] = p := by
    rw [roundRobin_order last _ (p - last - 1).isLt]
    exact eq_roundRobin_place last p
  refine List.find?_eq_some_iff_getElem.2 ⟨hp, (p - last - 1).val, (p - last - 1).isLt, hplace, fun j hj => ?_⟩
  have hj4 : j < 4 := hj.trans (p - last - 1).isLt
  rw [roundRobin_order last j hj4, hbefore, Bool.not_false]
  rw [roundRobin_place]
  exact hj

theorem State.nextCommand_eq_some {s : State} {p : Port} {c : CommandPacket} {rest : List CommandPacket}
    (hp : (s.port p).commandQueue = c :: rest)
    (hbefore : ∀ q : Port, (q - s.commandServed - 1).val < (p - s.commandServed - 1).val →
      (s.port q).commandQueue = []) : s.nextCommand = some (p, c) := by
  have hserved : roundRobin s.commandServed (fun p => !(s.port p).commandQueue.isEmpty) = some p :=
    roundRobin_eq_some (by simp [hp]) fun q hq => by simp [hbefore q hq]
  simp [State.nextCommand, hserved, hp]

theorem State.nextAccess_eq_some {s : State} {p : Port} {a : Access} {rest : List Access}
    (hp : (s.port p).accessQueue = a :: rest)
    (hbefore : ∀ q : Port, (q - s.accessServed - 1).val < (p - s.accessServed - 1).val →
      (s.port q).accessQueue = []) : s.nextAccess = some (p, a) := by
  have hserved : roundRobin s.accessServed (fun p => !(s.port p).accessQueue.isEmpty) = some p :=
    roundRobin_eq_some (by simp [hp]) fun q hq => by simp [hbefore q hq]
  simp [State.nextAccess, hserved, hp]

/-- Settles O13: the order of `roundRobin_order` gives the port, and a taking is the tail of its queue. -/
theorem roundRobinTakings : Obligations.RoundRobin := by
  refine ⟨fun s p c rest hp => State.nextCommand_eq_some hp, fun s p a rest hp => State.nextAccess_eq_some hp,
    fun s p c rest hp => ?_, fun s p a rest hp => ?_⟩
  · rw [State.commandTaken, hp]; rfl
  · rw [State.accessTaken, hp]; rfl

/-! ## Arrivals (R139, R180) -/

/-- A packet is discarded before readiness, and when it is malformed. -/
theorem arrival_discarded {s : State} {p : Port} {k : RawPacket} (hup : (s.port p).lineUp = true)
    (h : s.phase ≠ .ready ∨ decodePacket k = none)
    (act : Packet → Option (Host.Outcome State Fault Refusal)) : arrival p k act s = .next s := by
  unfold arrival
  rw [if_neg (by simp [hup])]
  rcases h with h | h
  · rw [if_pos h]
  · rw [h]; exact ite_self _

/-- Any other packet goes on as its row directs. -/
theorem arrival_taken {s : State} {p : Port} {k : RawPacket} {x : Packet} {o : Host.Outcome State Fault Refusal}
    (hup : (s.port p).lineUp = true) (hr : s.phase = .ready) (hk : decodePacket k = some x)
    {act : Packet → Option (Host.Outcome State Fault Refusal)} (hact : act x = some o) : arrival p k act s = o := by
  unfold arrival
  rw [if_neg (by simp [hup]), if_neg (by simp [hr]), hk]
  simp only [hact, Option.getD_some]

/-! Each row with a packet of its own. -/

section

variable {s : State} {p : Port} {k : RawPacket} (hup : (s.port p).lineUp = true) (hr : s.phase = .ready)

include hup hr

theorem exec_readArrival {t : ReadTag} {a : PoolAddress} {l : BitVec 16}
    (hk : decodePacket k = some (.access (.read t a l))) :
    exec (.readArrival p k) s = queueAccess p (.read t a l) s := by
  show execReadArrival p k s = _
  unfold execReadArrival
  exact arrival_taken hup hr hk rfl

theorem exec_writeArrival {a : PoolAddress} {l : BitVec 16} {d : List Byte}
    (hk : decodePacket k = some (.access (.write a l d))) :
    exec (.writeArrival p k) s = queueAccess p (.write a l d) s := by
  show execWriteArrival p k s = _
  unfold execWriteArrival
  exact arrival_taken hup hr hk rfl

theorem exec_commandArrival {c : CommandPacket} (hk : decodePacket k = some (.command c)) :
    exec (.commandArrival p k) s = queueCommand p c s := by
  show execCommandArrival p k s = _
  unfold execCommandArrival
  exact arrival_taken hup hr hk rfl

theorem exec_noticeAck {q : BitVec 16} (hk : decodePacket k = some (.noticeAck q)) :
    exec (.noticeAck p k) s = takeAck p q s := by
  show execNoticeAck p k s = _
  unfold execNoticeAck
  exact arrival_taken hup hr hk rfl

end

/-- An access joins the queue of an ONLINE or LINKED port with a credit (R104). -/
theorem queueAccess_joins {s : State} {p : Port} (hs : (s.port p).state = .online ∨ (s.port p).state = .linked)
    (hlen : (s.port p).accessQueue.length < 8) (a : Access) :
    queueAccess p a s = .next (s.setPort p { s.port p with accessQueue := (s.port p).accessQueue ++ [a] }) := by
  unfold queueAccess
  rcases hs with hs | hs <;> rw [hs] <;> exact if_pos hlen

theorem queueAccess_fencing {s : State} {p : Port} (hs : (s.port p).state = .fencing) (a : Access) :
    queueAccess p a s = .next s := by
  unfold queueAccess
  rw [hs]

/-- A COMMAND joins the queue of an ONLINE port with a credit (R40). -/
theorem queueCommand_joins {s : State} {p : Port} (hs : (s.port p).state = .online)
    (hlen : (s.port p).commandQueue.length < 8) (c : CommandPacket) :
    queueCommand p c s = .next (s.setPort p { s.port p with commandQueue := (s.port p).commandQueue ++ [c] }) := by
  unfold queueCommand
  rw [hs]
  exact if_pos hlen

theorem queueCommand_discarded {s : State} {p : Port}
    (hs : (s.port p).state = .fencing ∨ (s.port p).state = .linked) (c : CommandPacket) :
    queueCommand p c s = .next s := by
  unfold queueCommand
  rcases hs with hs | hs <;> rw [hs]

theorem takeAck_discarded {s : State} {p : Port}
    (hs : (s.port p).state = .fencing ∨ (s.port p).state = .linked) (q : BitVec 16) :
    takeAck p q s = .next s := by
  unfold takeAck
  rcases hs with hs | hs <;> rw [hs]

/-- Settles O7: each row's packet reaches `queueAccess` or `queueCommand`, which finds the port's state and a credit. -/
theorem arrivalJoinsQueue : Obligations.ArrivalJoinsQueue := by
  refine ⟨fun s p r => ⟨rfl, rfl, fun q => ?_⟩, fun s p k hup hr => ⟨?_, ?_, ?_⟩⟩
  · rw [State.port_setPort]
    exact if_congr eq_comm rfl rfl
  · intro t a l hk hs hlen
    rw [exec_readArrival hup hr hk, queueAccess_joins hs hlen]
  · intro a l d hk hs hlen
    rw [exec_writeArrival hup hr hk, queueAccess_joins hs hlen]
  · intro c hk hs hlen
    rw [exec_commandArrival hup hr hk, queueCommand_joins hs hlen]

/-- Settles O8: `arrival_discarded` before readiness and for malformed packets, else the port's state discards. -/
theorem arrivalDiscarded : Obligations.ArrivalDiscarded := by
  intro s p k hup
  refine ⟨fun h => ?_, fun hr hs => ⟨fun t a l hk => ?_, fun a l d hk => ?_⟩,
    fun hr hs => ⟨fun c hk => ?_, fun q hk => ?_⟩⟩
  · have hgone := arrival_discarded hup h
    exact ⟨hgone _, hgone _, hgone _, hgone _, hgone _⟩
  · rw [exec_readArrival hup hr hk, queueAccess_fencing hs]
  · rw [exec_writeArrival hup hr hk, queueAccess_fencing hs]
  · rw [exec_commandArrival hup hr hk, queueCommand_discarded hs]
  · rw [exec_noticeAck hup hr hk, takeAck_discarded hs]

end Sys2Proof.Machine
end

section
/-! The outcomes of JOIN, RENEW, RELEASE, CANCEL and LOOKUP (Chapter 3), and of a command whose tag is outstanding or
whose code is unknown. A row's action goes through the checks of its statement in their order. -/

namespace Sys2Proof.Machine

open Sys2Proof.Safety

/-! ## Any command (R43, R45) -/

/-- The row that takes a command acts on it. -/
theorem exec_rowOf (s : State) (p : Port) (tag : CommandTag) (c : LeaseCommand) :
    ∃ act f, exec (rowOf c) s = takeCommand act s ∧ act p tag c = some f := by
  cases c <;>
    simp only [rowOf, exec, execAcquire, execJoin, execRenew, execRelease, execConvert, execCancel, execLookup,
      execMalformedCommand] <;>
    exact ⟨_, _, rfl, rfl⟩

/-- A taking of a command of the row with its tag outstanding is TAG_IN_USE, whatever the action. -/
theorem takeCommand_outstanding {act : Port → CommandTag → LeaseCommand → Option (Work → Work)} {s : State} {p : Port}
    {tag : CommandTag} {x : LeaseCommand} {f : Work → Work} (hn : s.nextCommand = some (p, ⟨tag, x⟩))
    (ha : act p tag x = some f) (ht : (s.port p).commandTags.getLsbD tag.val = true) :
    takeCommand act s = .next ((Work.start (s.commandTaken p)).respond p tag .tagInUse).settle := by
  have ht' : (s.commandTaken p).tagOutstanding p tag = true := by simpa [State.tagOutstanding] using ht
  simp [takeCommand, hn, ha, withFreeTag, ht', Work.done]

theorem execMalformedCommand_free {s : State} {p : Port} {tag : CommandTag} {code : Byte} {operands : List Byte}
    (hnext : NextWithFreeTag s p tag (.unknown code operands)) :
    exec .malformedCommand s = .next ((Work.start (s.commandTaken p)).respond p tag .malformed).settle :=
  takeCommand_free (act := fun p tag c => match c with
    | .unknown _ _ => some (fun w => w.respond p tag .malformed)
    | .acquire _ _ _ _ _ | .join _ _ | .renew _ _ | .release _ | .convert _ | .cancel _ | .lookup _ => none)
    hnext.1 rfl hnext.2

/-- Settles O14: the tag is tested before any row's action, and the action on an unknown code is one answer. -/
theorem tagInUseAndMalformed : Obligations.TagInUseAndMalformed := by
  refine fun s p tag c hnext hroom => ⟨fun htag => ?_, fun code operands htag hc => ?_⟩
  · obtain ⟨act, f, hrow, hf⟩ := exec_rowOf s p tag c
    rw [hrow, takeCommand_outstanding hnext hf htag]
    exact congrArg _ (Work.settle_respond tag _ (room_commandTaken hroom))
  · subst hc
    rw [execMalformedCommand_free ⟨hnext, htag⟩]
    exact congrArg _ (Work.settle_respond tag _ (room_commandTaken hroom))

/-! ## JOIN (R51) -/

/-- A JOIN is answered by the first check it fails. -/
theorem join_eq (p : Port) (tag : CommandTag) (h : Handle) (term : Nat) (w : Work) :
    join p tag h term w = (firstFailure (joinChecks w.st p h term)).elim
      ((w.onState (fun s => s.setLease h.index (s.joinedRecord h.index p term))).respond p tag
        (.joined (w.st.holderDeadline term))) (w.respond p tag) := by
  simp only [join, joinChecks, firstFailure_cons_elim, firstFailure_nil_elim, State.resolves_eq,
    State.termAllowed_eq, State.withinReach_eq, State.quotaAllows_eq, decide_eq_true_eq, Bool.not_eq_false']

theorem joinChecks_commandTaken (s : State) (p : Port) (h : Handle) (term : Nat) :
    joinChecks (s.commandTaken p) p h term = joinChecks s p h term := rfl

theorem execJoin_free {s : State} {p : Port} {tag : CommandTag} {h : Handle} {t : BitVec 16}
    (hnext : NextWithFreeTag s p tag (.join h t)) :
    exec .join s = .next (join p tag h t.toNat (.start (s.commandTaken p))).settle :=
  takeCommand_free (act := fun p tag c => match c with
    | .join h t => some (join p tag h t.toNat)
    | .acquire _ _ _ _ _ | .renew _ _ | .release _ | .convert _ | .cancel _ | .lookup _ | .unknown _ _ => none)
    hnext.1 rfl hnext.2

/-- Settles O18: `join_eq`, with the record of `State.joinedRecord` when every check passes. -/
theorem joinOutcome : Obligations.JoinOutcome := by
  refine fun s p tag h t hnext hroom => ⟨fun a hfail => ?_, fun d hpass hd => ?_⟩
  · rw [execJoin_free hnext, join_eq, Work.start_st, joinChecks_commandTaken, hfail]
    exact congrArg _ (Work.settle_respond tag a (room_commandTaken hroom))
  · rw [execJoin_free hnext, join_eq, Work.start_st, joinChecks_commandTaken, hpass, hd, ← State.holderDeadline_toNat]
    exact congrArg _ (Work.settle_respond
      (u := (s.commandTaken p).setLease h.index (s.joinedRecord h.index p t.toNat)) tag _ (room_commandTaken hroom))

/-! ## RENEW (R53) -/

/-- A RENEW is answered by the first check it fails. -/
theorem renew_eq (p : Port) (tag : CommandTag) (h : Handle) (term : Nat) (w : Work) :
    renew p tag h term w = (firstFailure (renewChecks w.st p h term)).elim
      ((w.onState (fun s => s.setLease h.index (s.renewedRecord h.index p term))).respond p tag
        (.renewed (w.st.holderDeadline term))) (w.respond p tag) := by
  simp only [renew, renewChecks, firstFailure_cons_elim, firstFailure_nil_elim, State.resolves_eq,
    State.termAllowed_eq, decide_eq_true_eq, Bool.not_eq_false', Bool.not_eq_true']

theorem renewChecks_commandTaken (s : State) (p : Port) (h : Handle) (term : Nat) :
    renewChecks (s.commandTaken p) p h term = renewChecks s p h term := rfl

theorem execRenew_free {s : State} {p : Port} {tag : CommandTag} {h : Handle} {t : BitVec 16}
    (hnext : NextWithFreeTag s p tag (.renew h t)) :
    exec .renew s = .next (renew p tag h t.toNat (.start (s.commandTaken p))).settle :=
  takeCommand_free (act := fun p tag c => match c with
    | .renew h t => some (renew p tag h t.toNat)
    | .acquire _ _ _ _ _ | .join _ _ | .release _ | .convert _ | .cancel _ | .lookup _ | .unknown _ _ => none)
    hnext.1 rfl hnext.2

/-- Settles O19: `renew_eq`, with the record of `State.renewedRecord` when every check passes. -/
theorem renewOutcome : Obligations.RenewOutcome := by
  refine fun s p tag h t hnext hroom => ⟨fun a hfail => ?_, fun d hpass hd => ?_⟩
  · rw [execRenew_free hnext, renew_eq, Work.start_st, renewChecks_commandTaken, hfail]
    exact congrArg _ (Work.settle_respond tag a (room_commandTaken hroom))
  · rw [execRenew_free hnext, renew_eq, Work.start_st, renewChecks_commandTaken, hpass, hd,
      ← State.holderDeadline_toNat]
    exact congrArg _ (Work.settle_respond
      (u := (s.commandTaken p).setLease h.index (s.renewedRecord h.index p t.toNat)) tag _ (room_commandTaken hroom))

/-! ## RELEASE (R55, R75, R84) -/

/-- A RELEASE is answered by the first check it fails. -/
theorem release_eq (p : Port) (tag : CommandTag) (h : Handle) (w : Work) :
    release p tag h w = (firstFailure (releaseChecks w.st p h)).elim
      ((w.removeHolder h.index p .released).respond p tag .ok) (w.respond p tag) := by
  simp only [release, releaseChecks, firstFailure_cons_elim, firstFailure_nil_elim, State.resolves_eq,
    decide_eq_true_eq, Bool.not_eq_false', Bool.not_eq_true']

theorem releaseChecks_commandTaken (s : State) (p : Port) (h : Handle) :
    releaseChecks (s.commandTaken p) p h = releaseChecks s p h := rfl

theorem execRelease_free {s : State} {p : Port} {tag : CommandTag} {h : Handle}
    (hnext : NextWithFreeTag s p tag (.release h)) :
    exec .release s = .next (release p tag h (.start (s.commandTaken p))).settle :=
  takeCommand_free (act := fun p tag c => match c with
    | .release h => some (release p tag h)
    | .acquire _ _ _ _ _ | .join _ _ | .renew _ _ | .convert _ | .cancel _ | .lookup _ | .unknown _ _ => none)
    hnext.1 rfl hnext.2

/-- A retirement step touches no port, so a port's record may change before it or after it. -/
theorem retirement_setPort (s : State) (i : RecordIndex) (p : Port) (r : PortRecord) :
    (retirement s i).onState (fun u => u.setPort p r) = retirement (s.setPort p r) i := by
  unfold retirement
  rw [apply_ite (fun w : Work => w.onState (fun u => u.setPort p r)),
    apply_ite (fun w : Work => w.onState (fun u => u.setPort p r))]
  rfl

/-- So with the entry to DRAINING. -/
theorem drained_setPort (s : State) (i : RecordIndex) (c : RevokeCause) (p : Port) (r : PortRecord) :
    (drained s i c).onState (fun u => u.setPort p r) = drained (s.setPort p r) i c := by
  unfold drained
  rw [apply_ite (fun w : Work => w.onState (fun u => u.setPort p r)), retirement_setPort]
  rfl

theorem drained_port (s : State) (i : RecordIndex) (c : RevokeCause) (p : Port) :
    (drained s i c).st.port p = s.port p := by
  unfold drained retirement
  split
  · split
    · rfl
    · split <;> rfl
  · rfl

/-- An answer after the entry to DRAINING is as good as one before it. -/
theorem drained_respond {s : State} {p : Port} (i : RecordIndex) (c : RevokeCause) (tag : CommandTag) (a : Answer)
    (h : Room s p 1) : (drained s i c).respond p tag a = drained (queued s p [.response tag a]) i c := by
  have hlen : ((drained s i c).st.port p).outbound.length < 128 := by rw [drained_port]; exact h
  rw [Work.respond, Work.send_of_room _ _ _ hlen, drained_port, drained_setPort]
  rfl

/-- Settles O20: `release_eq`, with the removal of `Work.removeHolder_start` when every check passes. -/
theorem releaseOutcome : Obligations.ReleaseOutcome := by
  intro s p tag h others hnext hroom hothers
  have hroom' := room_commandTaken hroom
  have hleft : (((s.commandTaken p).lease h.index).withoutHolder p).holders = others := hothers.symm
  have hpassed : firstFailure (releaseChecks s p h) = none → exec .release s =
      .next (((Work.start (s.commandTaken p)).removeHolder h.index p .released).respond p tag .ok).settle := by
    intro hpass
    rw [execRelease_free hnext, release_eq, Work.start_st, releaseChecks_commandTaken, hpass]
    rfl
  refine ⟨fun a hfail => ?_, fun hpass hne => ?_, fun hpass hnil => ?_⟩
  · rw [execRelease_free hnext, release_eq, Work.start_st, releaseChecks_commandTaken, hfail]
    exact congrArg _ (Work.settle_respond tag a hroom')
  · rw [hpassed hpass, Work.removeHolder_start, hleft, if_neg hne, LeaseRecord.withoutHolder]
    subst hothers
    exact congrArg _ (Work.settle_respond
      (u := (s.commandTaken p).setLease h.index ((s.lease h.index).withoutHolder p)) tag .ok hroom')
  · rw [hpassed hpass, Work.removeHolder_start, hleft, if_pos hnil, drained_respond _ _ _ _ hroom']

/-! ## CANCEL (R58) -/

theorem WaitEntry.isTarget_iff (e : WaitEntry) (p : Port) (target : Byte) :
    e.isTarget p target = true ↔ e.port = p ∧ e.tag.val = target.toNat := decide_eq_true_iff

theorem execCancel_free {s : State} {p : Port} {tag : CommandTag} {target : Byte}
    (hnext : NextWithFreeTag s p tag (.cancel target)) :
    exec .cancel s = .next (cancel p tag target (.start (s.commandTaken p))).settle :=
  takeCommand_free (act := fun p tag c => match c with
    | .cancel t => some (cancel p tag t)
    | .acquire _ _ _ _ _ | .join _ _ | .renew _ _ | .release _ | .convert _ | .lookup _ | .unknown _ _ => none)
    hnext.1 rfl hnext.2

theorem cancel_of_none {p : Port} {target : Byte} {w : Work}
    (h : ∀ e ∈ w.st.waitQueue, ¬ (e.port = p ∧ e.tag.val = target.toNat)) (tag : CommandTag) :
    cancel p tag target w = w.respond p tag .notWaiting := by
  have hfind : w.st.waitQueue.find? (fun e => e.isTarget p target) = none :=
    List.find?_eq_none.2 fun e he => by rw [WaitEntry.isTarget_iff]; exact h e he
  unfold cancel
  rw [hfind]

/-- The oldest entry of the port with the target tag leaves, and the queue closes over its place. -/
theorem cancel_of_entry {p : Port} {target : Byte} {w : Work} {older younger : List WaitEntry} {e : WaitEntry}
    (hq : w.st.waitQueue = older ++ e :: younger) (he : e.port = p ∧ e.tag.val = target.toNat)
    (holder : ∀ x ∈ older, ¬ (x.port = p ∧ x.tag.val = target.toNat)) (tag : CommandTag) :
    cancel p tag target w =
      (((w.onState (fun s => { s.freeTag p e.tag with waitQueue := older ++ younger })).respond p e.tag
        .cancelled).respond p tag .ok).needScan := by
  have hfind : w.st.waitQueue.find? (fun e => e.isTarget p target) = some e := by
    rw [hq]
    refine List.find?_eq_some_iff_append.2 ⟨(e.isTarget_iff p target).2 he, older, younger, rfl, fun x hx => ?_⟩
    rw [Bool.not_eq_true', Bool.eq_false_iff, ne_eq, WaitEntry.isTarget_iff]
    exact holder x hx
  have herase : w.st.waitQueue.erase e = older ++ younger := by
    rw [hq, List.erase_append_right _ fun hmem => holder e hmem he, List.erase_cons_head]
  unfold cancel
  rw [hfind]
  simp only [Work.onState, State.leaveWaitQueue, herase, he.1]

/-- Two packets for a list with room for both join its end in the order in which they are produced. -/
theorem Work.send_send_of_room {w : Work} {p : Port} (h : Room w.st p 2) (k k' : OutPacket) :
    (w.send p k).send p k' =
      w.onState (fun s => s.setPort p { w.st.port p with outbound := (w.st.port p).outbound ++ [k, k'] }) := by
  have hlen : (w.st.port p).outbound.length + 2 ≤ 128 := h
  rw [Work.send_of_room w p k (by omega), Work.send_of_room _ p k' (by simp; omega)]
  simp [Work.onState, State.setPort_setPort]

theorem State.port_withdrawn (s : State) (p : Port) (tag : CommandTag) (q : List WaitEntry) :
    State.port { s.freeTag p tag with waitQueue := q } p = (s.port p).withoutTag tag := s.port_freeTag_self p tag

theorem room_withdrawn {s : State} {p : Port} {n : Nat} (h : Room s p n) (tag : CommandTag) (q : List WaitEntry) :
    Room { s.freeTag p tag with waitQueue := q } p n := by
  unfold Room
  rw [State.port_withdrawn]
  exact h

theorem State.setPort_withdrawn (s : State) (p : Port) (tag : CommandTag) (q : List WaitEntry) (r : PortRecord) :
    State.setPort { s.freeTag p tag with waitQueue := q } p r = { s.setPort p r with waitQueue := q } :=
  congrArg (fun u : State => { u with waitQueue := q }) (s.setPort_setPort p _ r)

/-- Settles O22: with no target `cancel_of_none`; else `cancel_of_entry`, whose two answers find room. -/
theorem cancelOutcome : Obligations.CancelOutcome := by
  refine fun s p tag target hnext hroom => ⟨fun hnone => ?_, fun older e younger hq hport htag holder => ?_⟩
  · have hone : Room s p 1 := by unfold Room at hroom ⊢; omega
    rw [execCancel_free hnext, cancel_of_none hnone]
    exact congrArg _ (Work.settle_respond tag _ (room_commandTaken hone))
  · rw [execCancel_free hnext, cancel_of_entry (w := .start (s.commandTaken p)) hq ⟨hport, htag⟩ holder, Work.respond,
      Work.respond, Work.send_send_of_room (room_withdrawn (room_commandTaken hroom) _ _)]
    refine congrArg (fun u => Host.Outcome.next (Work.settle ⟨u, [], [], true⟩)) ?_
    refine (State.setPort_withdrawn _ p e.tag _ _).trans ?_
    rw [Work.onState_st, Work.start_st, State.port_withdrawn]
    simp [PortRecord.withoutTag, dropMember]

/-! ## LOOKUP (R60) -/

theorem execLookup_free {s : State} {p : Port} {tag : CommandTag} {g : BitVec 16}
    (hnext : NextWithFreeTag s p tag (.lookup g)) :
    exec .lookup s = .next
      ((Work.start (s.commandTaken p)).respond p tag ((s.commandTaken p).lookupAnswer g.toNat)).settle :=
  takeCommand_free (act := fun p tag c => match c with
    | .lookup g => some (fun w => w.respond p tag (w.st.lookupAnswer g.toNat))
    | .acquire _ _ _ _ _ | .join _ _ | .renew _ _ | .release _ | .convert _ | .cancel _ | .unknown _ _ => none)
    hnext.1 rfl hnext.2

theorem State.lookupAnswer_commandTaken (s : State) (p : Port) (g : Nat) :
    (s.commandTaken p).lookupAnswer g = s.lookupAnswer g := rfl

theorem State.lookupAnswer_of_outOfPool {s : State} {g : Nat} (h : s.geometry.poolGranules ≤ g) :
    s.lookupAnswer g = .outOfPool := if_pos h

/-- The lowest-index live lease over the granule is found. -/
theorem State.lookupAnswer_of_covers {s : State} {g : Nat} {i : RecordIndex} (h : g < s.geometry.poolGranules)
    (hi : (s.lease i).coversLive g = true) (hlow : ∀ j, j < i → (s.lease j).coversLive g = false) :
    s.lookupAnswer g = .found (s.foundLease i) := by
  have hfind : (List.finRange 256).find? (fun i => (s.lease i).coversLive g) = some i :=
    List.find?_eq_some_iff_getElem.2 ⟨hi, i.val, by simp, by simp, fun j hj => by
      simpa using hlow ⟨j, by omega⟩ hj⟩
  unfold State.lookupAnswer
  rw [if_neg (by omega), hfind]

theorem State.lookupAnswer_of_uncovered {s : State} {g : Nat} (h : g < s.geometry.poolGranules)
    (hi : ∀ i, (s.lease i).coversLive g = false) :
    s.lookupAnswer g = if s.inScrubQueue g then .scrubbing else .none := by
  have hfind : (List.finRange 256).find? (fun i => (s.lease i).coversLive g) = none :=
    List.find?_eq_none.2 fun i _ => by simp [hi i]
  unfold State.lookupAnswer
  rw [if_neg (by omega), hfind]

/-- Settles O23: the answer is one of the three cases of `State.lookupAnswer`, and nothing but it is produced. -/
theorem lookupOutcome : Obligations.LookupOutcome := by
  intro s p tag g hnext hroom
  have hanswer : exec .lookup s =
      .next (queued (s.commandTaken p) p [.response tag (s.lookupAnswer g.toNat)]) := by
    rw [execLookup_free hnext, State.lookupAnswer_commandTaken]
    exact congrArg _ (Work.settle_respond tag _ (room_commandTaken hroom))
  rw [hanswer]
  refine ⟨fun h => ?_, fun i h hi hlow => ?_, fun h hi => ?_⟩
  · rw [State.lookupAnswer_of_outOfPool h]
  · rw [State.lookupAnswer_of_covers h hi hlow]; rfl
  · rw [State.lookupAnswer_of_uncovered h hi]; rfl

end Sys2Proof.Machine
end

section
/-! The capacities of the lists and queues that a port's record holds (R40, R104, R125, R141): what each shared
operation puts into a record keeps them, and so does whatever leaves the ports alone. -/

namespace Sys2Proof.Machine

open Sys2Proof.Safety

/-! ## The capacities, port by port -/

/-- What the capacities say of one port. -/
structure PortRecord.Bounded (r : PortRecord) : Prop where
  outbound : r.outbound.length ≤ 128
  commandQueue : r.commandQueue.length ≤ 8
  accessQueue : r.accessQueue.length ≤ 8
  inFlight : ∀ f ∈ r.unit.inFlight, f.redeliveries ≤ 3

/-- No port of the part exceeds its capacities. -/
def State.Bounded (s : State) : Prop := ∀ p, (s.port p).Bounded

theorem State.bounded_iff (s : State) : s.Bounded ↔ Capacities s :=
  forall_congr' fun _ => ⟨fun ⟨hout, hcommand, haccess, hflight⟩ => ⟨hout, hcommand, haccess, hflight⟩,
    fun ⟨hout, hcommand, haccess, hflight⟩ => ⟨hout, hcommand, haccess, hflight⟩⟩

theorem State.Bounded.of_ports {s t : State} (h : s.Bounded) (hp : t.ports = s.ports) : t.Bounded := fun p => by
  rw [State.port_eq_of_ports_eq hp]
  exact h p

theorem State.Bounded.setPort {s : State} (h : s.Bounded) {p : Port} {r : PortRecord} (hr : r.Bounded) :
    (s.setPort p r).Bounded := fun q => by
  rw [State.port_setPort]
  split
  · exact hr
  · exact h q

/-- A record with nothing in store. -/
theorem PortRecord.bounded_of_empty {r : PortRecord} (ho : r.outbound = []) (hc : r.commandQueue = [])
    (ha : r.accessQueue = []) (hf : r.unit.inFlight = none) : r.Bounded :=
  ⟨by simp [ho], by simp [hc], by simp [ha], by simp [hf]⟩

theorem State.Bounded.onState {w : Work} {f : State → State} (h : (f w.st).Bounded) : (w.onState f).st.Bounded := h

theorem State.Bounded.needScan {w : Work} (h : w.st.Bounded) : w.needScan.st.Bounded := h

/-! ## Packets and notifications -/

/-- A packet joins an outbound list only with room for it (R141). -/
theorem State.Bounded.send {w : Work} {p : Port} {k : OutPacket} (h : w.st.Bounded) : (w.send p k).st.Bounded := by
  rcases w.send_st_cases p k with hs | ⟨hlen, hs⟩ <;> rw [hs]
  · exact h
  · exact h.setPort { h p with outbound := by rw [List.length_append]; exact hlen }

theorem State.Bounded.respond {w : Work} {p : Port} {tag : CommandTag} {a : Answer} (h : w.st.Bounded) :
    (w.respond p tag a).st.Bounded := h.send

/-- A delivery sends a notification for the first time (R130). -/
theorem State.Bounded.deliver {w : Work} {p : Port} (h : w.st.Bounded) : (w.deliver p).st.Bounded := by
  rcases w.deliver_cases p with ⟨-, hd⟩ | ⟨e, rest, -, hd⟩ <;> rw [hd]
  · exact h
  · exact .send (.onState (h.setPort { h p with inFlight := by rintro _ ⟨⟩; exact Nat.zero_le 3 }))

theorem State.Bounded.raise {w : Work} {p : Port} {hd : Handle} {e : NoticeEvent} (h : w.st.Bounded) :
    (w.raise p hd e).st.Bounded := by
  rcases w.raise_cases p hd e with hr | ⟨-, hr⟩ | ⟨-, -, w', rfl, hr | hr⟩ | ⟨-, hr⟩ <;> rw [hr]
  · exact h
  · exact h.setPort { h p with }
  · exact h.setPort { h p with }
  · exact .deliver (.onState (h.setPort { h p with }))
  · rw [Work.overflow_st]; exact h

theorem State.Bounded.raiseHolders {w : Work} {i : RecordIndex} {e : NoticeEvent} (h : w.st.Bounded) :
    (w.raiseHolders i e).st.Bounded :=
  Work.raiseHolders_keeps (Q := fun x => x.st.Bounded) (fun _ _ _ _ hx => hx.raise) w i e h

/-! ## The lease table, which touches no port -/

theorem Work.drain_ports (w : Work) (i : RecordIndex) (c : RevokeCause) : (w.drain i c).st.ports = w.st.ports := by
  obtain ⟨w', rfl, ⟨hd, -⟩ | ⟨hd, -⟩⟩ := w.drain_cases i c <;> rw [hd]
  · rfl
  · exact (Work.retire_table _ i).ports

theorem Work.removeHolder_ports (w : Work) (i : RecordIndex) (p : Port) (c : RevokeCause) :
    (w.removeHolder i p c).st.ports = w.st.ports := by
  obtain ⟨w', rfl, ⟨-, hr⟩ | ⟨-, hr⟩⟩ := w.removeHolder_cases i p c <;> rw [hr]
  · rfl
  · exact Work.drain_ports _ i c

theorem Work.drainOne_ports (w : Work) (i : RecordIndex) : (w.drainOne i).st.ports = w.st.ports := by
  obtain ⟨w', rfl, ⟨hd, -⟩ | ⟨hd, -⟩⟩ := w.drainOne_cases i <;> rw [hd]
  · rfl
  · exact (Work.retire_table _ i).ports

theorem State.Bounded.revokeAll {w : Work} {i : RecordIndex} (h : w.st.Bounded) : (w.revokeAll i).st.Bounded :=
  Work.revokeAll_keeps (Q := fun x => x.st.Bounded) (fun _ _ _ _ hx => hx.raise) (fun _ _ _ hx => hx)
    (fun x i c hx => hx.of_ports (x.drain_ports i c)) w i h

theorem State.Bounded.giveNotice {w : Work} {i : RecordIndex} {d : ClockValue} (h : w.st.Bounded) :
    (w.giveNotice i d).st.Bounded := .raiseHolders (.onState h)

theorem State.Bounded.poolError {w : Work} {i : RecordIndex} {a : PoolAddress} (h : w.st.Bounded) :
    (w.poolError i a).st.Bounded := .onState (.raiseHolders (.onState h))

/-! ## Scans, sessions and the end of an event -/

theorem State.Bounded.freeTag {s : State} {p : Port} {tag : CommandTag} (h : s.Bounded) : (s.freeTag p tag).Bounded :=
  h.setPort { h p with }

theorem State.Bounded.grant {w : Work} {i : RecordIndex} {p : Port} {tag : CommandTag} {k : AcquireKind} {e : Extent}
    {term : Nat} (h : w.st.Bounded) : (w.grant i p tag k e term).st.Bounded := .respond (.onState h)

theorem State.Bounded.scan {w : Work} (h : w.st.Bounded) : w.scan.st.Bounded := by
  refine Work.scanEntries_keeps (Q := fun x => x.st.Bounded) (fun x older e hx => ?_) w.st.waitQueue w [] h
  rcases x.scanEntry_cases older e with hs | ⟨a, hs⟩ | ⟨i, -, -, -, -, -, hs⟩ <;> rw [hs]
  · exact hx
  · exact .respond (.onState hx.freeTag)
  · exact .grant (.onState hx.freeTag)

/-- A fenced port has nothing in store (R146). -/
theorem State.Bounded.fenceStart {w : Work} {p : Port} {c : FenceCause} {hello : Option HostId} (h : w.st.Bounded) :
    (w.fenceStart p c hello).st.Bounded := fun q => by
  rw [(w.fenceStart_fenced p c hello).ports]
  split
  · exact PortRecord.bounded_of_empty rfl rfl rfl rfl
  · exact h q

theorem State.Bounded.enterOnline {w : Work} {p : Port} {host : HostId} (h : w.st.Bounded) :
    (w.enterOnline p host).st.Bounded := .send (.onState (h.setPort { h p with }))

theorem State.Bounded.fenceEnd {w : Work} {p : Port} (h : w.st.Bounded) : (w.fenceEnd p).st.Bounded := by
  rcases w.fenceEnd_cases p with he | ⟨-, -, he⟩ | ⟨-, -, -, he⟩ | ⟨host, -, -, -, he⟩ <;> rw [he]
  · exact h
  · exact h.setPort { h p with }
  · exact h.setPort { h p with }
  · exact h.enterOnline

theorem State.Bounded.settle {w : Work} (h : w.st.Bounded) : w.settle.Bounded :=
  Work.settle_keeps (P := State.Bounded) (fun _ _ hs => hs) (fun _ _ _ _ hw => hw.fenceStart)
    (fun _ hw => hw.scan) (fun _ _ hw => hw.fenceEnd) w h

theorem Work.done_bounded {w : Work} {t : State} (hd : w.done = .next t) (h : w.st.Bounded) : t.Bounded :=
  (Work.done_eq_next_iff w t).1 hd ▸ h.settle

end Sys2Proof.Machine
end

section
/-! Every event keeps the capacities, row by row, and so does every step (R40, R104, R125, R141). -/

namespace Sys2Proof.Machine

open Sys2Proof.Safety

/-! ## Arrivals and link events -/

/-- A ninth access is never queued (R104, R139). -/
theorem queueAccess_bounded {p : Port} {a : Access} {s t : State} (hs : s.Bounded)
    (h : queueAccess p a s = .next t) : t.Bounded := by
  have hjoin : (s.port p).accessQueue.length < 8 →
      (s.setPort p { s.port p with accessQueue := (s.port p).accessQueue ++ [a] }).Bounded := fun hlen =>
    hs.setPort { hs p with accessQueue := by rw [List.length_append]; exact hlen }
  unfold queueAccess at h
  split at h
  · split at h
    · next hlen => rw [next_inj h]; exact hjoin hlen
    · cases h
  · split at h
    · next hlen => rw [next_inj h]; exact hjoin hlen
    · cases h
  · rw [next_inj h]; exact hs
  · cases h

/-- Nor is a ninth COMMAND (R40, R139). -/
theorem queueCommand_bounded {p : Port} {c : CommandPacket} {s t : State} (hs : s.Bounded)
    (h : queueCommand p c s = .next t) : t.Bounded := by
  unfold queueCommand at h
  split at h
  · split at h
    · next hlen =>
      rw [next_inj h]
      exact hs.setPort { hs p with commandQueue := by rw [List.length_append]; exact hlen }
    · cases h
  · rw [next_inj h]; exact hs
  · rw [next_inj h]; exact hs
  · cases h

theorem takeAck_bounded {p : Port} {q : BitVec 16} {s t : State} (hs : s.Bounded) (h : takeAck p q s = .next t) :
    t.Bounded := by
  unfold takeAck at h
  split at h
  · split at h
    · exact Work.done_bounded h (.deliver (.onState (hs.setPort { hs p with inFlight := by rintro _ ⟨⟩ })))
    · rw [next_inj h]; exact hs
  · rw [next_inj h]; exact hs
  · rw [next_inj h]; exact hs
  · cases h

theorem takeHello_bounded {p : Port} {host : HostId} {s t : State} (hs : s.Bounded)
    (h : takeHello p host s = .next t) : t.Bounded := by
  unfold takeHello at h
  split at h
  · exact Work.done_bounded h (.enterOnline hs)
  · exact Work.done_bounded h (.fenceStart hs)
  · rw [next_inj h]; exact hs.setPort { hs p with }
  · cases h

/-- An arrival keeps the capacities when what its row does with the packet keeps them. -/
theorem arrival_bounded {p : Port} {k : RawPacket} {act : Packet → Option (Host.Outcome State Fault Refusal)}
    {s t : State} (hs : s.Bounded) (h : arrival p k act s = .next t)
    (hact : ∀ x o, act x = some o → o = .next t → t.Bounded) : t.Bounded := by
  obtain ⟨-, rfl | ⟨-, x, o, -, hx, ho⟩⟩ := arrival_next h
  · exact hs
  · exact hact x o hx ho

theorem execReadArrival_bounded {p : Port} {k : RawPacket} {s t : State} (hs : s.Bounded)
    (h : execReadArrival p k s = .next t) : t.Bounded :=
  arrival_bounded hs h fun x o hx ho => by
    split at hx
    · obtain rfl := Option.some.inj hx; exact queueAccess_bounded hs ho
    all_goals cases hx

theorem execWriteArrival_bounded {p : Port} {k : RawPacket} {s t : State} (hs : s.Bounded)
    (h : execWriteArrival p k s = .next t) : t.Bounded :=
  arrival_bounded hs h fun x o hx ho => by
    split at hx
    · obtain rfl := Option.some.inj hx; exact queueAccess_bounded hs ho
    all_goals cases hx

theorem execCommandArrival_bounded {p : Port} {k : RawPacket} {s t : State} (hs : s.Bounded)
    (h : execCommandArrival p k s = .next t) : t.Bounded :=
  arrival_bounded hs h fun x o hx ho => by
    split at hx
    · obtain rfl := Option.some.inj hx; exact queueCommand_bounded hs ho
    all_goals cases hx

theorem execNoticeAck_bounded {p : Port} {k : RawPacket} {s t : State} (hs : s.Bounded)
    (h : execNoticeAck p k s = .next t) : t.Bounded :=
  arrival_bounded hs h fun x o hx ho => by
    split at hx
    · obtain rfl := Option.some.inj hx; exact takeAck_bounded hs ho
    all_goals cases hx

theorem execHello_bounded {p : Port} {k : RawPacket} {s t : State} (hs : s.Bounded)
    (h : execHello p k s = .next t) : t.Bounded :=
  arrival_bounded hs h fun x o hx ho => by
    split at hx
    · obtain rfl := Option.some.inj hx; exact takeHello_bounded hs ho
    all_goals cases hx

theorem execLinkUp_bounded {p : Port} {s t : State} (hs : s.Bounded) (h : execLinkUp p s = .next t) : t.Bounded := by
  unfold execLinkUp at h
  split at h
  · cases h
  extract_lets _ r at h
  have hr : r.Bounded := { hs p with }
  split at h
  · rw [next_inj h]; exact hs.setPort hr
  split at h
  · rw [next_inj h]; exact hs.setPort { hr with }
  · rw [next_inj h]; exact hs.setPort { hr with }
  · cases h
  · cases h

theorem execLinkLoss_bounded {p : Port} {s t : State} (hs : s.Bounded) (h : execLinkLoss p s = .next t) :
    t.Bounded := by
  unfold execLinkLoss at h
  split at h
  · cases h
  extract_lets _ r at h
  have hr : r.Bounded := { hs p with }
  split at h
  · rw [next_inj h]; exact hs.setPort hr
  split at h
  · rw [next_inj h]; exact hs.setPort { hr with outbound := by simp, accessQueue := by simp }
  · refine Work.done_bounded h (.fenceStart ?_)
    exact hs.setPort { hr with }
  · rw [next_inj h]; exact hs.setPort { hr with }
  · cases h

theorem execPacketSent_bounded {p : Port} {s t : State} (hs : s.Bounded) (h : execPacketSent p s = .next t) :
    t.Bounded := by
  unfold execPacketSent at h
  split at h
  · cases h
  · next k rest hq =>
    rw [next_inj h]
    have hout := (hs p).outbound
    rw [hq] at hout
    exact hs.setPort { hs p with outbound := (Nat.le_succ _).trans hout }

/-! ## Commands (Chapter 3) -/

theorem State.Bounded.commandTaken {s : State} (h : s.Bounded) (p : Port) : (s.commandTaken p).Bounded :=
  h.setPort { h p with
    commandQueue := by rw [List.length_tail]; exact (Nat.sub_le _ _).trans (h p).commandQueue }

/-- A taking of a command keeps the capacities when its row's action does. -/
theorem takeCommand_bounded {act : Port → CommandTag → LeaseCommand → Option (Work → Work)} {s t : State}
    (hs : s.Bounded) (h : takeCommand act s = .next t)
    (hact : ∀ p tag x f (w : Work), act p tag x = some f → w.st.Bounded → (f w).st.Bounded) : t.Bounded := by
  obtain ⟨p, c, f, -, hf, rfl⟩ := takeCommand_next h
  have htaken : (Work.start (s.commandTaken p)).st.Bounded := hs.commandTaken p
  refine State.Bounded.settle ?_
  unfold withFreeTag
  split
  · exact htaken.respond
  · exact hact p c.tag c.command f _ hf htaken

/-- A command answered by the first check it fails, or else as it passes. -/
theorem State.Bounded.checked {w passed : Work} (h : w.st.Bounded) (hpassed : passed.st.Bounded) (p : Port)
    (tag : CommandTag) (o : Option Answer) : (o.elim passed (w.respond p tag)).st.Bounded := by
  cases o with
  | none => exact hpassed
  | some a => exact h.respond

theorem notGrantable_bounded {w : Work} (h : w.st.Bounded) {p : Port} {tag : CommandTag} {k : AcquireKind} {e : Extent}
    {term maxWait : Nat} : (notGrantable p tag k e term maxWait w).st.Bounded := by
  unfold notGrantable
  split
  · split <;> exact h.respond
  · split
    · exact h.respond
    · exact h.setPort (p := p) { h p with }

theorem acquirePassed_bounded {w : Work} (h : w.st.Bounded) {p : Port} {tag : CommandTag} {k : AcquireKind}
    {e : Extent} {term maxWait : Nat} : (acquirePassed p tag k e term maxWait w).st.Bounded := by
  unfold acquirePassed
  split
  · exact notGrantable_bounded h
  split
  · exact notGrantable_bounded h
  · exact h.grant

theorem State.Bounded.leaveWaitQueue {s : State} {e : WaitEntry} (h : s.Bounded) : (s.leaveWaitQueue e).Bounded :=
  State.Bounded.freeTag h

theorem cancel_bounded {w : Work} (h : w.st.Bounded) {p : Port} {tag : CommandTag} {target : Byte} :
    (cancel p tag target w).st.Bounded := by
  unfold cancel
  split
  · exact h.respond
  · exact .needScan (.respond (.respond (.onState h.leaveWaitQueue)))

theorem execAcquire_bounded {s t : State} (hs : s.Bounded) (h : execAcquire s = .next t) : t.Bounded :=
  takeCommand_bounded hs h fun p tag x f w hx hw => by
    split at hx
    · obtain rfl := Option.some.inj hx
      rw [acquire_eq]; exact hw.checked (acquirePassed_bounded hw) p tag _
    all_goals cases hx

theorem execJoin_bounded {s t : State} (hs : s.Bounded) (h : execJoin s = .next t) : t.Bounded :=
  takeCommand_bounded hs h fun p tag x f w hx hw => by
    split at hx
    · obtain rfl := Option.some.inj hx
      rw [join_eq]; exact hw.checked (.respond (.onState hw)) p tag _
    all_goals cases hx

theorem execRenew_bounded {s t : State} (hs : s.Bounded) (h : execRenew s = .next t) : t.Bounded :=
  takeCommand_bounded hs h fun p tag x f w hx hw => by
    split at hx
    · obtain rfl := Option.some.inj hx
      rw [renew_eq]; exact hw.checked (.respond (.onState hw)) p tag _
    all_goals cases hx

theorem execRelease_bounded {s t : State} (hs : s.Bounded) (h : execRelease s = .next t) : t.Bounded :=
  takeCommand_bounded hs h fun p tag x f w hx hw => by
    split at hx
    · obtain rfl := Option.some.inj hx
      rw [release_eq]; exact hw.checked (.respond (hw.of_ports (w.removeHolder_ports _ p _))) p tag _
    all_goals cases hx

theorem execConvert_bounded {s t : State} (hs : s.Bounded) (h : execConvert s = .next t) : t.Bounded :=
  takeCommand_bounded hs h fun p tag x f w hx hw => by
    split at hx
    · obtain rfl := Option.some.inj hx
      rw [convert_eq]; exact hw.checked (.respond (.onState hw)) p tag _
    all_goals cases hx

theorem execCancel_bounded {s t : State} (hs : s.Bounded) (h : execCancel s = .next t) : t.Bounded :=
  takeCommand_bounded hs h fun p tag x f w hx hw => by
    split at hx
    · obtain rfl := Option.some.inj hx
      exact cancel_bounded hw
    all_goals cases hx

theorem execLookup_bounded {s t : State} (hs : s.Bounded) (h : execLookup s = .next t) : t.Bounded :=
  takeCommand_bounded hs h fun p tag x f w hx hw => by
    split at hx
    · obtain rfl := Option.some.inj hx
      exact hw.respond
    all_goals cases hx

theorem execMalformedCommand_bounded {s t : State} (hs : s.Bounded) (h : execMalformedCommand s = .next t) :
    t.Bounded :=
  takeCommand_bounded hs h fun p tag x f w hx hw => by
    split at hx
    · obtain rfl := Option.some.inj hx
      exact hw.respond
    all_goals cases hx

/-! ## Deadlines -/

theorem execWaitDeadlineExpiry_bounded {p : Port} {tag : CommandTag} {s t : State} (hs : s.Bounded)
    (h : execWaitDeadlineExpiry p tag s = .next t) : t.Bounded := by
  unfold execWaitDeadlineExpiry at h
  split at h
  · cases h
  split at h
  · exact Work.done_bounded h (.needScan (.respond (.onState (State.Bounded.leaveWaitQueue hs))))
  · cases h

theorem execHolderExpiry_bounded {i : RecordIndex} {p : Port} {s t : State} (hs : s.Bounded)
    (h : execHolderExpiry i p s = .next t) : t.Bounded := by
  unfold execHolderExpiry at h
  split at h
  · cases h
  split at h
  · cases h
  split at h
  · have hremoved := hs.of_ports ((Work.start s).removeHolder_ports i p .expired)
    exact Work.done_bounded h hremoved.raise
  · cases h

theorem execNoticeDeadline_bounded {i : RecordIndex} {s t : State} (hs : s.Bounded)
    (h : execNoticeDeadline i s = .next t) : t.Bounded := by
  unfold execNoticeDeadline at h
  split at h
  · cases h
  split at h
  · cases h
  split at h
  · exact Work.done_bounded h (.revokeAll hs)
  · cases h

/-- A notification is sent again only below 3 redeliveries (R132, R133). -/
theorem execAckTimerExpiry_bounded {p : Port} {s t : State} (hs : s.Bounded)
    (h : execAckTimerExpiry p s = .next t) : t.Bounded := by
  unfold execAckTimerExpiry at h
  split at h
  · split at h
    · split at h
      · next hlow =>
        refine Work.done_bounded h (.send (.onState (hs.setPort { hs p with inFlight := ?_ })))
        rintro _ ⟨⟩
        exact hlow
      · exact Work.done_bounded h (.fenceStart hs)
    · cases h
  · cases h

theorem execLeaseClockTick_bounded {s t : State} (hs : s.Bounded) (h : execLeaseClockTick s = .next t) :
    t.Bounded := by
  unfold execLeaseClockTick at h
  split at h <;> rw [next_inj h] <;> exact hs

/-! ## Accesses (Chapter 7) -/

theorem State.Bounded.accessTaken {s : State} {p : Port} (h : s.Bounded) : (s.accessTaken p).Bounded :=
  h.setPort { h p with
    accessQueue := by rw [List.length_tail]; exact (Nat.sub_le _ _).trans (h p).accessQueue }

theorem takeRead_bounded {w : Work} (h : w.st.Bounded) {n : HostSlotNumber} {p : Port} {tag : ReadTag}
    {a : PoolAddress} {length : Nat} : (takeRead n p tag a length w).st.Bounded := by
  unfold takeRead
  split
  · exact .onState (h.setPort { h p with })
  · exact .send (.onState (h.setPort { h p with }))

theorem takeWrite_bounded {w : Work} (h : w.st.Bounded) {n : HostSlotNumber} {p : Port} {a : PoolAddress}
    {length : BitVec 16} {data : List Byte} : (takeWrite n p a length data w).st.Bounded := by
  unfold takeWrite
  split
  · exact .onState h
  · exact .send (.onState (h.setPort { h p with }))

theorem execReadTaking_bounded {s t : State} (hs : s.Bounded) (h : execReadTaking s = .next t) : t.Bounded := by
  unfold execReadTaking at h
  split at h
  · cases h
  split at h
  · exact Work.done_bounded h (takeRead_bounded hs.accessTaken)
  · cases h

theorem execWriteTaking_bounded {s t : State} (hs : s.Bounded) (h : execWriteTaking s = .next t) : t.Bounded := by
  unfold execWriteTaking at h
  split at h
  · cases h
  split at h
  · exact Work.done_bounded h (takeWrite_bounded hs.accessTaken)
  · cases h

theorem State.Bounded.carriedOut {s : State} {n : HostSlotNumber} (h : s.Bounded) : (s.carriedOut n).Bounded :=
  h.of_ports (by rw [(s.carriedOut_poolOnly n).eq])

theorem State.Bounded.answerRead {w : Work} {x : HostSlot} {tag : ReadTag} {status : ReadStatus} {data : List Byte}
    (h : w.st.Bounded) : (w.answerRead x tag status data).st.Bounded := by
  unfold Work.answerRead
  split
  · exact h
  · exact .send (.onState (h.setPort { h x.port with }))

theorem State.Bounded.completeSlot {w : Work} {n : HostSlotNumber} {x : HostSlot} (h : w.st.Bounded) :
    (w.completeSlot n x).st.Bounded := by
  have hdrained := h.of_ports
    ((w.onState fun s => (s.setSlot n none).forget n).drainOne_ports x.lease)
  unfold Work.completeSlot
  extract_lets w'
  split
  · rw [Work.endFence_st]; exact hdrained
  · exact hdrained

theorem execReadCompletion_bounded {n : HostSlotNumber} {e : Bool} {s t : State} (hs : s.Bounded)
    (h : execReadCompletion n e s = .next t) : t.Bounded := by
  unfold execReadCompletion at h
  split at h
  · cases h
  split at h
  · split at h
    · exact Work.done_bounded h (.completeSlot (.answerRead (.poolError hs)))
    · exact Work.done_bounded h (.completeSlot (.answerRead (.onState hs.carriedOut)))
  · cases h

theorem execWriteCompletion_bounded {n : HostSlotNumber} {s t : State} (hs : s.Bounded)
    (h : execWriteCompletion n s = .next t) : t.Bounded := by
  unfold execWriteCompletion at h
  split at h
  · cases h
  split at h
  · cases h
  · exact Work.done_bounded h (.completeSlot (.onState hs.carriedOut))

/-! ## The scrub engine (R96, R97) -/

theorem Work.shrinkHead_ports (w : Work) (g : Nat) : (w.shrinkHead g).st.ports = w.st.ports := by
  unfold Work.shrinkHead
  extract_lets w1
  split
  · rfl
  split
  · unfold Work.serveHeld
    split
    · rfl
    · rw [Work.needScan_st, Work.onState_st, State.joinScrubQueue_eq]; rfl
  · rfl

theorem execZeroFillCompletion_bounded {s t : State} (hs : s.Bounded) (h : execZeroFillCompletion s = .next t) :
    t.Bounded := by
  unfold execZeroFillCompletion at h
  split at h
  · cases h
  next g _ =>
  have hshrunk := hs.of_ports ((Work.start s).shrinkHead_ports g)
  refine Work.done_bounded h ?_
  rw [Work.onState_st, State.issueZeroFill_eq]
  exact hshrunk.scan

/-! ## The service unit (Chapter 11) -/

/-- A request keeps the capacities when its effects do. -/
theorem service_bounded {code : Byte} {act : Work → Work × ServiceResult × List Byte} {s t : State} (hs : s.Bounded)
    (h : service code act s = .next t) (hact : (act (.start s)).1.st.Bounded) : t.Bounded := by
  rcases service_next h with ⟨-, rfl⟩ | ⟨-, rfl⟩
  · exact hs
  · exact State.Bounded.settle (.onState hact)

theorem report_bounded {code : Byte} {fields : State → List Byte} {s t : State} (hs : s.Bounded)
    (h : report code fields s = .next t) : t.Bounded := service_bounded hs h hs

theorem execBadFrame_bounded {l : List Byte} {s t : State} (hs : s.Bounded) (h : execBadFrame l s = .next t) :
    t.Bounded := by
  unfold execBadFrame at h
  split at h
  · exact service_bounded hs h hs
  · cases h

theorem execBadCommand_bounded {l : List Byte} {s t : State} (hs : s.Bounded) (h : execBadCommand l s = .next t) :
    t.Bounded := by
  unfold execBadCommand at h
  split at h
  · exact service_bounded hs h hs
  · cases h

theorem execRefusalClear_bounded {b : Byte} {s t : State} (hs : s.Bounded) (h : execRefusalClear b s = .next t) :
    t.Bounded :=
  service_bounded hs h <| by
    split
    · exact hs
    · next p _ => exact hs.setPort { hs p with }

theorem execPortReset_bounded {b : Byte} {s t : State} (hs : s.Bounded) (h : execPortReset b s = .next t) :
    t.Bounded :=
  service_bounded hs h <| by
    split
    · exact hs
    · dsimp only
      split
      · exact State.Bounded.fenceStart hs
      · exact hs

theorem forceRevoke_bounded {w : Work} (h : w.st.Bounded) (hd : Handle) (grace : Nat) :
    (forceRevoke hd grace w).1.st.Bounded := by
  unfold forceRevoke
  extract_lets r
  split
  · exact h
  split
  · exact h
  split
  · exact h.revokeAll
  split
  · split
    · exact h
    · exact h.giveNotice
  · exact h.giveNotice

theorem execForceRevoke_bounded {hd : Handle} {b : BitVec 16} {s t : State} (hs : s.Bounded)
    (h : execForceRevoke hd b s = .next t) : t.Bounded :=
  service_bounded hs h <| by
    split
    · exact hs
    · exact forceRevoke_bounded (w := .start s) hs hd b.toNat

theorem execFieldWrite_bounded {x : Selector} {v : BitVec 24} {s t : State} (hs : s.Bounded)
    (h : execFieldWrite x v s = .next t) : t.Bounded :=
  service_bounded hs h <| by
    split
    · exact hs
    split
    · exact hs
    dsimp only
    split <;> exact hs

theorem execProfileSave_bounded {b : Byte} {s t : State} (hs : s.Bounded) (h : execProfileSave b s = .next t) :
    t.Bounded :=
  service_bounded hs h <| by
    split
    · exact hs
    split
    · exact hs
    split <;> exact hs

theorem execProfileLoad_bounded {b : Byte} {s t : State} (hs : s.Bounded) (h : execProfileLoad b s = .next t) :
    t.Bounded :=
  service_bounded hs h <| by
    split
    · exact hs
    split
    · exact hs
    split <;> exact hs

theorem execBootSelect_bounded {b : Byte} {s t : State} (hs : s.Bounded) (h : execBootSelect b s = .next t) :
    t.Bounded :=
  service_bounded hs h <| by
    split
    · exact hs
    split <;> exact hs

theorem execNvOperationComplete_bounded {b : Bool} {s t : State} (hs : s.Bounded)
    (h : execNvOperationComplete b s = .next t) : t.Bounded := by
  unfold execNvOperationComplete at h
  split at h
  · cases h
  next o _ =>
  split at h <;> rw [next_inj h]
  · cases o <;> exact hs
  · exact hs

/-! ## Resets, start-up and readiness (Chapter 10) -/

theorem State.Bounded.powerOnStartUp {s : State} (h : s.Bounded) : s.powerOnStartUp.Bounded :=
  h.of_ports (by rw [State.powerOnStartUp_fields])

theorem State.Bounded.deviceResetStartUp {s : State} (h : s.Bounded) : s.deviceResetStartUp.Bounded := by
  rw [State.deviceResetStartUp_eq, startedUp_eq]
  exact h

theorem State.powerOnBlank_bounded (s : State) : s.powerOnBlank.Bounded := fun p => by
  rw [State.powerOnBlank_port]
  exact PortRecord.bounded_of_empty rfl rfl rfl rfl

theorem State.deviceResetBlocks_bounded (s : State) : s.deviceResetBlocks.Bounded := fun p => by
  rw [State.deviceResetBlocks_port]
  exact PortRecord.bounded_of_empty rfl rfl rfl rfl

theorem execPowerOnReset_bounded {s t : State} (h : execPowerOnReset s = .next t) : t.Bounded := by
  unfold execPowerOnReset at h
  split at h <;> rw [next_inj h]
  · exact s.powerOnBlank_bounded
  · exact s.powerOnBlank_bounded.powerOnStartUp

theorem execDeviceReset_bounded {s t : State} (hs : s.Bounded) (h : execDeviceReset s = .next t) : t.Bounded := by
  unfold execDeviceReset at h
  split at h <;> rw [next_inj h]
  · exact hs
  · exact (State.deviceResetBlocks_bounded _).deviceResetStartUp

theorem execResetAssert_bounded {s t : State} (h : execResetAssert s = .next t) : t.Bounded := by
  unfold execResetAssert at h
  split at h
  · cases h
  · rw [next_inj h]; exact s.deviceResetBlocks_bounded

theorem execResetRelease_bounded {s t : State} (hs : s.Bounded) (h : execResetRelease s = .next t) : t.Bounded := by
  unfold execResetRelease at h
  split at h
  · rw [next_inj h]; exact hs.powerOnStartUp
  · rw [next_inj h]; exact hs.deviceResetStartUp
  · cases h
  · cases h

theorem PortRecord.Bounded.place {r : PortRecord} (h : r.Bounded) : r.place.Bounded := by
  unfold PortRecord.place
  split <;> exact { h with }

theorem execBecomeReady_bounded {s t : State} (hs : s.Bounded) (h : execBecomeReady s = .next t) : t.Bounded := by
  unfold execBecomeReady at h
  split at h
  · next powerOn _ =>
    extract_lets s1 at h
    have hplaced : s1.Bounded := fun p => by
      rw [State.port_placed]
      exact (hs p).place
    rw [next_inj h, State.issueZeroFill_eq]
    split
    · rw [State.linkAlerts_eq]; exact hplaced
    · exact hplaced
  all_goals cases h

/-! ## Every command and every step -/

theorem exec_bounded {c : Instr} {s t : State} (hs : s.Bounded) (h : exec c s = .next t) : t.Bounded := by
  cases c with
  | readArrival p k => exact execReadArrival_bounded hs h
  | writeArrival p k => exact execWriteArrival_bounded hs h
  | commandArrival p k => exact execCommandArrival_bounded hs h
  | noticeAck p k => exact execNoticeAck_bounded hs h
  | hello p k => exact execHello_bounded hs h
  | linkUp p => exact execLinkUp_bounded hs h
  | linkLoss p => exact execLinkLoss_bounded hs h
  | packetSent p => exact execPacketSent_bounded hs h
  | acquire => exact execAcquire_bounded hs h
  | join => exact execJoin_bounded hs h
  | renew => exact execRenew_bounded hs h
  | release => exact execRelease_bounded hs h
  | convert => exact execConvert_bounded hs h
  | cancel => exact execCancel_bounded hs h
  | lookup => exact execLookup_bounded hs h
  | malformedCommand => exact execMalformedCommand_bounded hs h
  | waitDeadlineExpiry p tag => exact execWaitDeadlineExpiry_bounded hs h
  | holderExpiry n p => exact execHolderExpiry_bounded hs h
  | noticeDeadline n => exact execNoticeDeadline_bounded hs h
  | readTaking => exact execReadTaking_bounded hs h
  | writeTaking => exact execWriteTaking_bounded hs h
  | readCompletion slot poolError => exact execReadCompletion_bounded hs h
  | writeCompletion slot => exact execWriteCompletion_bounded hs h
  | zeroFillCompletion => exact execZeroFillCompletion_bounded hs h
  | ackTimerExpiry p => exact execAckTimerExpiry_bounded hs h
  | badFrame l => exact execBadFrame_bounded hs h
  | badCommand l => exact execBadCommand_bounded hs h
  | identify => exact report_bounded hs (show execIdentify s = .next t from h)
  | status => exact report_bounded hs (show execStatus s = .next t from h)
  | alertRead => exact report_bounded hs (show execAlertRead s = .next t from h)
  | waitRead => exact report_bounded hs (show execWaitRead s = .next t from h)
  | scrubRead => exact report_bounded hs (show execScrubRead s = .next t from h)
  | alertClear causes =>
    exact service_bounded hs (show execAlertClear causes s = .next t from h) (by split <;> exact hs)
  | alertMask mask => exact service_bounded hs (show execAlertMask mask s = .next t from h) (by split <;> exact hs)
  | portStatus port => exact service_bounded hs (show execPortStatus port s = .next t from h) (by split <;> exact hs)
  | refusalClear port => exact execRefusalClear_bounded hs h
  | portReset port => exact execPortReset_bounded hs h
  | leaseRead index => exact service_bounded hs (show execLeaseRead index s = .next t from h) (by split <;> exact hs)
  | leaseNext granule =>
    exact service_bounded hs (show execLeaseNext granule s = .next t from h) (by split <;> exact hs)
  | forceRevoke hd grace => exact execForceRevoke_bounded hs h
  | deviceReset => exact execDeviceReset_bounded hs h
  | fieldRead x => exact service_bounded hs (show execFieldRead x s = .next t from h) (by split <;> exact hs)
  | fieldWrite x value => exact execFieldWrite_bounded hs h
  | profileSave slot => exact execProfileSave_bounded hs h
  | profileLoad slot => exact execProfileLoad_bounded hs h
  | bootSelect slot => exact execBootSelect_bounded hs h
  | nvOperationComplete agrees => exact execNvOperationComplete_bounded hs h
  | powerOnReset => exact execPowerOnReset_bounded h
  | resetAssert => exact execResetAssert_bounded h
  | resetRelease => exact execResetRelease_bounded hs h
  | becomeReady => exact execBecomeReady_bounded hs h
  | leaseClockTick => exact execLeaseClockTick_bounded hs h

/-- Settles O56: every event keeps every port within its capacities (`exec_bounded`), and so does the step. -/
theorem stepKeepsCapacities : Obligations.StepKeepsCapacities := by
  intro s t hs h
  rw [← State.bounded_iff] at hs ⊢
  exact step_keeps (P := State.Bounded) (fun _ _ h => h) (fun _ _ _ h he => exec_bounded h he) s t hs h

end Sys2Proof.Machine
end

section
/-! The service requests that read and FIELD_WRITE (R74, R103, R168 to R171, R174, R177), and the expiry of a wait
(R69). -/

namespace Sys2Proof.Machine

open Sys2Proof.Safety

/-! ## Service requests with a result of their own -/

/-- A request of a ready part that has no effect but its response, which then is all that changes. -/
theorem service_reading {code : Byte} {act : Work → Work × ServiceResult × List Byte} {s : State} {r : ServiceResult}
    {fields : List Byte} (h : s.phase = .ready) (hact : act (.start s) = (.start s, r, fields)) :
    service code act s = .next (s.putResponse code r fields) := by
  rw [service_ready h, hact]
  exact congrArg _ (Work.settle_quiet _)

theorem portOfByte_eq_some {b : Byte} {p : Port} (h : b.toNat = p.val) : portOfByte b = some p := by
  unfold portOfByte
  rw [dif_pos (by omega)]
  exact congrArg some (Fin.ext h)

theorem portOfByte_eq_none {b : Byte} (h : 3 < b.toNat) : portOfByte b = none := dif_neg (by omega)

/-! ## The requests that read (R168) -/

section

variable {s : State} (hr : s.phase = .ready)

include hr

theorem report_reading (code : Byte) (fields : State → List Byte) :
    report code fields s = .next (s.putResponse code .ok (fields s)) :=
  service_reading hr rfl

theorem execPortStatus_port {b : Byte} {p : Port} (hb : b.toNat = p.val) :
    execPortStatus b s = .next (s.putResponse 0x06 .ok (s.portView p)) :=
  service_reading hr (by rw [portOfByte_eq_some hb]; rfl)

theorem execPortStatus_badValue {b : Byte} (hb : 3 < b.toNat) :
    execPortStatus b s = .next (s.putResponse 0x06 .badValue []) :=
  service_reading hr (by rw [portOfByte_eq_none hb])

theorem execLeaseRead_record {b : BitVec 16} {i : RecordIndex} (hb : b.toNat = i.val) :
    execLeaseRead b s = .next (s.putResponse 0x09 .ok (s.recordView i)) := by
  have hlt : b.toNat < 256 := hb ▸ i.isLt
  have hi : ⟨b.toNat, hlt⟩ = i := Fin.ext hb
  exact service_reading hr ((dif_pos hlt).trans (by rw [hi]; rfl))

theorem execLeaseRead_badValue {b : BitVec 16} (hb : 255 < b.toNat) :
    execLeaseRead b s = .next (s.putResponse 0x09 .badValue []) :=
  service_reading hr (dif_neg (not_lt.2 hb))

theorem execLeaseNext_granule {g : BitVec 24} (hg : g.toNat ≤ 65535) :
    execLeaseNext g s = .next (s.putResponse 0x0A .ok (s.nextView g.toNat)) :=
  service_reading hr (if_pos hg)

theorem execLeaseNext_badValue {g : BitVec 24} (hg : 65535 < g.toNat) :
    execLeaseNext g s = .next (s.putResponse 0x0A .badValue []) :=
  service_reading hr (if_neg (not_le.2 hg))

theorem execFieldRead_field {x : Selector} {f : ProfileField} (hx : ProfileField.ofSelector x = some f) :
    execFieldRead x s = .next (s.putResponse 0x0F .ok (leBytes 3 (s.running.fieldValue f))) :=
  service_reading hr (by rw [hx]; rfl)

theorem execFieldRead_badValue {x : Selector} (hx : ProfileField.ofSelector x = none) :
    execFieldRead x s = .next (s.putResponse 0x0F .badValue []) :=
  service_reading hr (by rw [hx])

end

/-- Settles O41: a request without operands by `report_reading`, and each other by its two lemmas. -/
theorem readingRequests : Obligations.ReadingRequests :=
  ⟨fun _ _ _ _ => rfl, fun s hr =>
    ⟨show execIdentify s = _ from report_reading hr _ _, show execStatus s = _ from report_reading hr _ _,
      show execAlertRead s = _ from report_reading hr _ _, show execWaitRead s = _ from report_reading hr _ _,
      show execScrubRead s = _ from report_reading hr _ _, fun _ _ => execPortStatus_port hr,
      fun _ => execPortStatus_badValue hr, fun _ _ => execLeaseRead_record hr, fun _ => execLeaseRead_badValue hr,
      fun _ => execLeaseNext_granule hr, fun _ => execLeaseNext_badValue hr, fun _ _ => execFieldRead_field hr,
      fun _ => execFieldRead_badValue hr⟩⟩

/-! ## FIELD_WRITE (R174) -/

/-- The four fields of reach and quota, whose writes start a scan, are those of codes 4 to 7 (R65, section 12.3). -/
theorem ProfileField.startsScan_ofSelector {x : Selector} {f : ProfileField}
    (h : ProfileField.ofSelector x = some f) : f.startsScan = decide (4 ≤ x.code.toNat ∧ x.code.toNat ≤ 7) := by
  unfold ProfileField.ofSelector at h
  split at h <;> rename_i hcode <;>
    simp only [Option.some.injEq, Option.map_eq_some_iff, Option.bind_eq_some_iff, reduceCtorEq] at h
  all_goals rw [hcode]
  all_goals grind [ProfileField.startsScan]

/-- A field written, with what is then due. -/
theorem execFieldWrite_field {s : State} {x : Selector} {v : BitVec 24} {f : ProfileField} {q : Profile}
    (hr : s.phase = .ready) (hx : ProfileField.ofSelector x = some f) (hq : s.running.writeField f v.toNat = some q) :
    execFieldWrite x v s =
      .next (Work.settle ⟨{ s with running := q }.putResponse 0x10 .ok [], [], [], f.startsScan⟩) := by
  refine (service_ready hr).trans ?_
  simp only [hx, Work.start_st, hq]
  cases f.startsScan <;> rfl

/-- Settles O46: a refusal is a `service_reading`, a write `execFieldWrite_field`. -/
theorem fieldWriteOutcome : Obligations.FieldWriteOutcome := by
  intro s x v hr
  show (_ → execFieldWrite x v s = _) ∧ (∀ f, _ → _ → execFieldWrite x v s = _) ∧
    (∀ f q, _ → _ → execFieldWrite x v s = _)
  refine ⟨fun hx => service_reading hr ?_, fun f hx hq => service_reading hr ?_, fun f q hx hq => ?_⟩
  · rw [hx]
  · simp only [hx, Work.start_st, hq]
  · rw [execFieldWrite_field hr hx hq, ProfileField.startsScan_ofSelector hx]

/-! ## The expiry of a wait (R69) -/

/-- The entry of a port and tag that no older entry has leaves the queue with its tag, which closes over its place. -/
theorem State.leaveWaitQueue_eq {s : State} {older younger : List WaitEntry} {e : WaitEntry}
    (hq : s.waitQueue = older ++ e :: younger) (ho : ∀ x ∈ older, ¬ (x.port = e.port ∧ x.tag = e.tag)) :
    s.leaveWaitQueue e = { s.freeTag e.port e.tag with waitQueue := older ++ younger } := by
  have herase : s.waitQueue.erase e = older ++ younger := by
    rw [hq, List.erase_append_right _ fun hmem => ho e hmem ⟨rfl, rfl⟩, List.erase_cons_head]
  rw [State.leaveWaitQueue, herase]

/-- A wait deadline that is reached makes its entry leave. -/
theorem execWaitDeadlineExpiry_reached {s : State} {older younger : List WaitEntry} {e : WaitEntry}
    (hq : s.waitQueue = older ++ e :: younger) (ho : ∀ x ∈ older, ¬ (x.port = e.port ∧ x.tag = e.tag))
    (hreached : (s.clock - e.deadline).toNat < 2 ^ 31) :
    execWaitDeadlineExpiry e.port e.tag s =
      .next (((Work.start { s.freeTag e.port e.tag with waitQueue := older ++ younger }).respond e.port e.tag
        .deniedTimeout).needScan).settle := by
  have hfind : s.waitQueue.find? (fun x => decide (x.port = e.port ∧ x.tag = e.tag)) = some e := by
    rw [hq]
    exact List.find?_eq_some_iff_append.2 ⟨by simp, older, younger, rfl, fun x hx => by
      simpa only [Bool.not_eq_true', decide_eq_false_iff_not] using ho x hx⟩
  have hr : s.reached e.deadline = true := decide_eq_true hreached
  unfold execWaitDeadlineExpiry
  rw [hfind, ← State.leaveWaitQueue_eq hq ho]
  exact if_pos hr

/-- Settles O27: the entry leaves by `execWaitDeadlineExpiry_reached`, and its answer finds room. -/
theorem waitDeadlineOutcome : Obligations.WaitDeadlineOutcome := by
  intro s older younger e hq ho hreached hroom
  refine (execWaitDeadlineExpiry_reached hq ho hreached).trans ?_
  rw [Work.respond, Work.send_of_room (Work.start _) _ _ (room_withdrawn hroom e.tag (older ++ younger))]
  refine congrArg (fun u => Host.Outcome.next (Work.settle ⟨u, [], [], true⟩)) ?_
  refine (State.setPort_withdrawn s e.port e.tag _ _).trans ?_
  rw [Work.start_st, State.port_withdrawn]
  rfl

end Sys2Proof.Machine
end

section
/-! A second scan made at once (R66, R68; log 13): what kept an entry waiting in the first scan still stands after it,
since a scan takes no lease away and changes no policy. -/

namespace Sys2Proof.Machine

open Sys2Proof.Safety

/-! ## What a scan changes of the tests of an entry -/

/-- Policy, scrub queue and every live lease are as before: leases were only given out. -/
structure State.OnlyGrants (s t : State) : Prop where
  running : t.running = s.running
  scrubQueue : t.scrubQueue = s.scrubQueue
  live : ∀ i, (s.lease i).state ≠ .free → t.lease i = s.lease i

theorem State.OnlyGrants.refl (s : State) : s.OnlyGrants s := ⟨rfl, rfl, fun _ _ => rfl⟩

theorem State.OnlyGrants.trans {a b c : State} (h : a.OnlyGrants b) (h' : b.OnlyGrants c) : a.OnlyGrants c where
  running := h'.running.trans h.running
  scrubQueue := h'.scrubQueue.trans h.scrubQueue
  live i hi := (h'.live i (by rwa [h.live i hi])).trans (h.live i hi)

theorem State.Talks.onlyGrants {s t : State} (h : s.Talks t) : s.OnlyGrants t := by
  refine ⟨?_, ?_, fun i _ => h.lease i⟩ <;> rw [h.eq]

/-- A grant of a FREE record leaves every live lease as it is. -/
theorem State.OnlyGrants.setLease {s : State} {i : RecordIndex} (hi : (s.lease i).state = .free) (r : LeaseRecord) :
    s.OnlyGrants (s.setLease i r) where
  running := rfl
  scrubQueue := rfl
  live j hj := by
    rw [State.lease_setLease, if_neg]
    rintro rfl
    exact hj hi

/-- A tag that leaves the outstanding ones is the port's own. -/
theorem State.OnlyGrants.freeTag (s : State) (p : Port) (tag : CommandTag) : s.OnlyGrants (s.freeTag p tag) :=
  ⟨rfl, rfl, fun _ _ => rfl⟩

theorem Work.grant_onlyGrants {w : Work} {i : RecordIndex} (hi : (w.st.lease i).state = .free) (p : Port)
    (tag : CommandTag) (k : AcquireKind) (e : Extent) (term : Nat) :
    w.st.OnlyGrants (w.grant i p tag k e term).st :=
  State.OnlyGrants.trans (b := w.st.setLease i (w.st.grantedRecord i p k e term)) (.setLease hi _)
    (Work.respond_talks (w.onState fun s => s.setLease i (s.grantedRecord i p k e term)) _ _ _).st.onlyGrants

theorem Work.scanEntry_onlyGrants (w : Work) (older : List WaitEntry) (e : WaitEntry) :
    w.st.OnlyGrants (w.scanEntry older e).2.st := by
  have hfree : w.st.OnlyGrants (w.onState fun s => s.freeTag e.port e.tag).st := .freeTag w.st e.port e.tag
  rcases w.scanEntry_cases older e with h | ⟨a, h⟩ | ⟨i, hi, -, -, -, -, h⟩ <;> rw [h]
  · exact .refl _
  · exact hfree.trans (Work.respond_talks _ _ _ a).st.onlyGrants
  · exact hfree.trans (Work.grant_onlyGrants (w := w.onState fun s => s.freeTag e.port e.tag)
      (State.lowestFree_free hi) _ _ _ _ _)

/-- What conflicts with a proposed extent still does after grants. -/
theorem State.OnlyGrants.conflicts {s t : State} (h : s.OnlyGrants t) {k : AcquireKind} {e : Extent}
    (hc : s.conflicts k e = true) : t.conflicts k e = true := by
  rw [State.conflicts_iff] at hc ⊢
  rcases hc with ⟨i, hlive, hi⟩ | hq
  · exact .inl ⟨i, by rw [h.live i hlive]; exact ⟨hlive, hi⟩⟩
  · exact .inr (h.scrubQueue ▸ hq)

/-! ## The entries that stay -/

/-- Steps 1 and 2 of a scan keep the entry, its port's quotas aside: it is within reach, and an older entry, a lease or
the want of a FREE record stands in its way (R66). -/
structure State.KeepsWaiting (s : State) (older : List WaitEntry) (e : WaitEntry) : Prop where
  reach : reachFails (s.policy e.port) e.extent = false
  inTheWay :
    blocked older e.extent = true ∨ s.conflicts e.kind e.extent = true ∨ ∀ i, (s.lease i).state ≠ .free

theorem State.OnlyGrants.keepsWaiting {s t : State} (h : s.OnlyGrants t) {older : List WaitEntry} {e : WaitEntry}
    (he : s.KeepsWaiting older e) : t.KeepsWaiting older e where
  reach := by
    rw [State.policy, h.running]
    exact he.reach
  inTheWay := he.inTheWay.imp_right (.imp h.conflicts fun hfree i => by rw [h.live i (hfree i)]; exact hfree i)

/-- With a FREE record in the table there is a lowest one. -/
theorem State.exists_lowestFree {s : State} {i : RecordIndex} (hi : (s.lease i).state = .free) :
    ∃ j, s.lowestFree = some j :=
  Option.isSome_iff_exists.1 (List.find?_isSome.2 ⟨i, List.mem_finRange i, decide_eq_true hi⟩)

/-- An entry stays in a scan only when something keeps it waiting, and it then changes nothing. -/
theorem Work.keepsWaiting_of_stays {w w' : Work} {older : List WaitEntry} {e : WaitEntry}
    (h : w.scanEntry older e = (true, w')) : w' = w ∧ w.st.KeepsWaiting older e := by
  by_cases hr : reachFails (w.st.policy e.port) e.extent = true
  · simp [Work.scanEntry_of_reach hr] at h
  rw [Bool.not_eq_true] at hr
  by_cases hq : quotaFails w.st e.port (w.st.policy e.port) e.count = true
  · simp [Work.scanEntry_of_quota hr hq] at h
  rw [Bool.not_eq_true] at hq
  by_cases hway : blocked older e.extent = true ∨ w.st.conflicts e.kind e.extent = true ∨
      ∀ i, (w.st.lease i).state ≠ .free
  · rw [Work.scanEntry_stays hr hq hway] at h
    exact ⟨(congrArg Prod.snd h).symm, hr, hway⟩
  · simp only [not_or, Bool.not_eq_true, not_forall, ne_eq, not_not] at hway
    obtain ⟨hb, hc, i, hi⟩ := hway
    obtain ⟨j, hj⟩ := State.exists_lowestFree hi
    simp [Work.scanEntry_granted hr hq hb hc hj] at h

/-- Every entry of a list is kept waiting behind the entries before it. -/
def State.KeepsAllWaiting (s : State) : List WaitEntry → List WaitEntry → Prop
  | _, [] => True
  | older, e :: rest => s.KeepsWaiting older e ∧ s.KeepsAllWaiting (older ++ [e]) rest

theorem State.OnlyGrants.keepsAllWaiting {s t : State} (h : s.OnlyGrants t) : ∀ (l older : List WaitEntry),
    s.KeepsAllWaiting older l → t.KeepsAllWaiting older l
  | [], _, _ => trivial
  | _ :: rest, _, ⟨he, hrest⟩ => ⟨h.keepsWaiting he, h.keepsAllWaiting rest _ hrest⟩

/-- After a scan every entry that stayed is kept waiting still. -/
theorem Work.scanEntries_keepsAllWaiting : ∀ (l : List WaitEntry) (w : Work) (older : List WaitEntry),
    w.st.OnlyGrants (w.scanEntries older l).2.st ∧
      ∃ kept, (w.scanEntries older l).1 = older ++ kept ∧ (w.scanEntries older l).2.st.KeepsAllWaiting older kept := by
  intro l
  induction l with
  | nil => exact fun w older => ⟨.refl _, [], (List.append_nil older).symm, trivial⟩
  | cons e rest ih =>
    intro w older
    have hgrants := w.scanEntry_onlyGrants older e
    rcases hentry : w.scanEntry older e with ⟨_ | _, w'⟩ <;> rw [hentry] at hgrants
    · obtain ⟨hrest, kept, hkept, hall⟩ := ih w' older
      rw [Work.scanEntries_of_leaves hentry]
      exact ⟨hgrants.trans hrest, kept, hkept, hall⟩
    · obtain ⟨hrest, kept, hkept, hall⟩ := ih w' (older ++ [e])
      obtain ⟨rfl, hstays⟩ := Work.keepsWaiting_of_stays hentry
      rw [Work.scanEntries_of_stays hentry]
      exact ⟨hrest, e :: kept, by rw [hkept, List.append_assoc]; rfl, hrest.keepsWaiting hstays, hall⟩

/-- Entries that are all kept waiting, and whose ports' quotas they pass, all stay. -/
theorem Work.scanEntries_of_keepsAllWaiting {w : Work} : ∀ (l older : List WaitEntry), w.st.KeepsAllWaiting older l →
    (∀ e ∈ l, w.st.quotaAllows e.port e.count = true) → w.scanEntries older l = (older ++ l, w) := by
  intro l
  induction l with
  | nil => exact fun older _ _ => by rw [List.append_nil]; rfl
  | cons e rest ih =>
    intro older ⟨he, hrest⟩ hquota
    have hq : quotaFails w.st e.port (w.st.policy e.port) e.count = false := by
      simpa [State.quotaAllows_eq] using hquota e List.mem_cons_self
    rw [Work.scanEntries_of_stays (Work.scanEntry_stays he.reach hq he.inTheWay),
      ih _ hrest fun x hx => hquota x (List.mem_cons_of_mem e hx), List.append_assoc]
    rfl

/-- A scan in which every entry stays changes nothing. -/
theorem Work.scan_start_of_all_stay {s : State}
    (h : (Work.start s).scanEntries [] s.waitQueue = (s.waitQueue, .start s)) :
    (Work.start s).scan = .start s := by
  unfold Work.scan
  rw [Work.start_st, h]
  rfl

/-- Settles O26: what keeps an entry waiting outlasts the scan (`Work.scanEntries_keepsAllWaiting`), and the premise
gives the quotas. -/
theorem secondScanChangesNothing : Obligations.SecondScanChangesNothing := by
  rintro s w rfl hquota
  obtain ⟨-, kept, hkept, hall⟩ := Work.scanEntries_keepsAllWaiting s.waitQueue (.start s) []
  have hqueue : (Work.start s).scan.st.waitQueue = kept := hkept
  have hput : ((Work.start s).scanEntries [] s.waitQueue).2.st.OnlyGrants (Work.start s).scan.st :=
    ⟨rfl, rfl, fun _ _ => rfl⟩
  have hstill := hput.keepsAllWaiting kept [] hall
  refine Work.scan_start_of_all_stay ?_
  rw [hqueue] at hquota ⊢
  exact Work.scanEntries_of_keepsAllWaiting (w := .start (Work.start s).scan.st) kept [] hstill hquota

end Sys2Proof.Machine
end

section
/-! Everything that a fence start does (R76, R86 to R88, R122, R146; log 6): the retirement steps that it makes first,
one list after the other, and then its parts put together. -/

namespace Sys2Proof.Machine

open Sys2Proof.Safety

/-! ## Effects on the lease table -/

/-- Only the lease table, the scrub queue and engine and the counter of choices change, and what is due beside a scan
stays as it is. -/
structure Work.OnTable (w w' : Work) : Prop where
  st : w'.st =
    { w.st with
      leases := w'.st.leases, held := w'.st.held, scrubSlot := w'.st.scrubSlot, scrubQueue := w'.st.scrubQueue
      choices := w'.st.choices }
  overflowed : w'.overflowed = w.overflowed
  ending : w'.ending = w.ending

theorem Work.OnTable.refl (w : Work) : w.OnTable w := ⟨rfl, rfl, rfl⟩

theorem Work.OnTable.trans {a b c : Work} (h : a.OnTable b) (h' : b.OnTable c) : a.OnTable c := by
  refine ⟨?_, h'.overflowed.trans h.overflowed, h'.ending.trans h.ending⟩
  rw [h'.st, h.st]

theorem Work.OnTable.needsScrub {w w' : Work} (h : w.OnTable w') (r : LeaseRecord) :
    w'.st.needsScrub r = w.st.needsScrub r := by
  rw [h.st]
  rfl

theorem Work.retire_onTable (w : Work) (i : RecordIndex) : w.OnTable (w.retire i) := by
  rcases w.retire_cases i with ⟨-, h⟩ | ⟨-, -, h⟩ | ⟨-, -, h⟩ <;> rw [h]
  · exact ⟨rfl, rfl, rfl⟩
  · refine ⟨?_, rfl, rfl⟩
    rw [Work.needScan_st, Work.onState_st, State.joinScrubQueue_eq]
    rfl
  · exact ⟨rfl, rfl, rfl⟩

theorem Work.foldl_retire_onTable (l : List RecordIndex) (w : Work) : w.OnTable (l.foldl Work.retire w) :=
  foldl_keeps (Q := w.OnTable) Work.retire (fun a i ha => ha.trans (a.retire_onTable i)) l w (.refl w)

theorem Work.fenceLeases_onTable (w : Work) (p : Port) : w.OnTable (w.fenceLeases p) :=
  Work.fenceLeases_keeps (Q := w.OnTable) (fun _ _ _ h => h.trans ⟨rfl, rfl, rfl⟩)
    (fun a i h => h.trans (a.retire_onTable i)) (fun _ _ h => h.trans ⟨rfl, rfl, rfl⟩) w p (.refl w)

/-! ## Records that lose the port (R76) -/

theorem State.mem_fencedLeases_iff {s : State} {p : Port} {i : RecordIndex} : i ∈ s.fencedLeases p ↔
    (s.lease i).inForce = true ∧ (s.lease i).standing = none ∧ (s.lease i).holds p = true := by
  simp only [State.fencedLeases, List.mem_filter, List.mem_finRange, true_and, Bool.and_eq_true,
    Option.isNone_iff_eq_none, and_assoc]

/-- A lease with other holders keeps its state. -/
theorem LeaseRecord.fenceOff_of_others {r : LeaseRecord} {p : Port}
    (h : r.holders.any (fun h => decide (h.port ≠ p)) = true) : r.fenceOff p = r.withoutHolder p := by
  refine if_neg fun hnil => ?_
  obtain ⟨x, hx, hp⟩ := List.any_eq_true.1 h
  have hmem : x ∈ (r.withoutHolder p).holders := List.mem_filter.2 ⟨hx, hp⟩
  rw [hnil] at hmem
  exact List.not_mem_nil hmem

/-- A lease without other holder enters DRAINING. -/
theorem LeaseRecord.fenceOff_of_none_left {r : LeaseRecord} {p : Port}
    (h : r.holders.all (fun h => decide (h.port = p)) = true) : r.fenceOff p = drainingRecord r .fenced := by
  refine if_pos (List.filter_eq_nil_iff.2 fun x hx => ?_)
  simpa using List.all_eq_true.1 h x hx

/-- The records that make their retirement step are those left DRAINING and drained. -/
theorem retiresAtFence_iff {s : State} {p : Port} {i : RecordIndex} : retiresAtFence s p i = true ↔
    i ∈ s.fencedLeases p ∧ ((s.lease i).fenceOff p).state = .draining ∧ ((s.lease i).fenceOff p).drainCount = 0 := by
  unfold retiresAtFence
  rw [State.mem_fencedLeases_iff]
  simp only [Bool.and_eq_true, Option.isNone_iff_eq_none, decide_eq_true_eq, and_assoc]
  refine and_congr_right fun hforce => and_congr_right fun _ => and_congr_right fun _ => ?_
  by_cases hall : (s.lease i).holders.all (fun h => decide (h.port = p)) = true
  · simp [LeaseRecord.fenceOff_of_none_left hall, hall, drainingRecord]
  · have hany : (s.lease i).holders.any (fun h => decide (h.port ≠ p)) = true := by simpa using hall
    have hstate : (s.lease i).state ≠ .draining := fun h => by simp [LeaseRecord.inForce, h] at hforce
    simp [LeaseRecord.fenceOff_of_others hany, hall, LeaseRecord.withoutHolder, hstate]

/-- A lease with other holders does not retire. -/
theorem retiresAtFence_of_others {s : State} {p : Port} {i : RecordIndex}
    (h : (s.lease i).holders.any (fun h => decide (h.port ≠ p)) = true) : retiresAtFence s p i = false := by
  obtain ⟨x, hx, hp⟩ := List.any_eq_true.1 h
  have hall : (s.lease i).holders.all (fun h => decide (h.port = p)) = false :=
    List.all_eq_false.2 ⟨x, hx, by simpa using hp⟩
  simp [retiresAtFence, hall]

/-- Losing the port changes nothing that decides whether a scrub is needed. -/
theorem State.needsScrub_fenceOff (s : State) (r : LeaseRecord) (p : Port) :
    s.needsScrub (r.fenceOff p) = s.needsScrub r := by
  unfold LeaseRecord.fenceOff
  extract_lets r'
  split <;> rfl

/-- The records of a list lose the port, and nothing else changes. -/
theorem Work.foldl_fenceOff (p : Port) : ∀ (l : List RecordIndex) (w w' : Work), l.Nodup →
    w' = l.foldl (fun x i => x.onState (fun s => s.setLease i ((s.lease i).fenceOff p))) w →
    (∀ i ∈ l, w'.st.lease i = (w.st.lease i).fenceOff p) ∧ (∀ i ∉ l, w'.st.lease i = w.st.lease i) ∧
      w' = { w with st := { w.st with leases := w'.st.leases } } := by
  intro l
  induction l with
  | nil => rintro w _ - rfl; exact ⟨by simp, fun _ _ => rfl, rfl⟩
  | cons i rest ih =>
    intro w w' hnodup hw'
    obtain ⟨hnot, hrest⟩ := List.nodup_cons.1 hnodup
    obtain ⟨hin, hout, heq⟩ := ih _ w' hrest hw'
    simp only [Work.onState_st, State.lease_setLease] at hin hout
    refine ⟨fun j hj => ?_, fun j hj => ?_, heq⟩
    · rcases List.mem_cons.1 hj with rfl | hj
      · rw [hout _ hnot, if_pos rfl]
      · rw [hin j hj, if_neg (ne_of_mem_of_not_mem hj hnot).symm]
    · rw [List.mem_cons, not_or] at hj
      rw [hout j hj.2, if_neg (Ne.symm hj.1)]

/-! ## Retirement steps one after the other (R86 to R88) -/

/-- The records of a list that need no scrub all become FREE. -/
theorem Work.foldl_retire_plain : ∀ (l : List RecordIndex) (w w' : Work), l.Nodup →
    (∀ i ∈ l, w.st.needsScrub (w.st.lease i) = false) → w' = l.foldl Work.retire w →
    (∀ i ∈ l, w'.st.lease i = emptyRecord (w.st.lease i).generation) ∧ (∀ i ∉ l, w'.st.lease i = w.st.lease i) ∧
      w'.st = { w.st with leases := w'.st.leases } := by
  intro l
  induction l with
  | nil => rintro w _ - - rfl; exact ⟨by simp, fun _ _ => rfl, rfl⟩
  | cons i rest ih =>
    intro w w' hnodup hplain hw'
    obtain ⟨hnot, hrest⟩ := List.nodup_cons.1 hnodup
    have hretire : w.retire i = (w.onState (fun s => s.freeRecord i)).needScan :=
      if_neg (by simp [hplain i List.mem_cons_self])
    have hlease : ∀ j, (w.retire i).st.lease j =
        if i = j then emptyRecord (w.st.lease i).generation else w.st.lease j := fun j => by
      rw [hretire]; exact State.lease_freeRecord w.st i j
    obtain ⟨hin, hout, heq⟩ := ih (w.retire i) w' hrest (fun j hj => by
      rw [(w.retire_onTable i).needsScrub, hlease, if_neg (ne_of_mem_of_not_mem hj hnot).symm]
      exact hplain j (List.mem_cons_of_mem i hj)) hw'
    refine ⟨fun j hj => ?_, fun j hj => ?_, ?_⟩
    · rcases List.mem_cons.1 hj with rfl | hj
      · rw [hout _ hnot, hlease, if_pos rfl]
      · rw [hin j hj, hlease, if_neg (ne_of_mem_of_not_mem hj hnot).symm]
    · rw [List.mem_cons, not_or] at hj
      rw [hout j hj.2, hlease, if_neg (Ne.symm hj.1)]
    · rw [hretire] at heq
      exact heq

/-- What the retirement steps of these records, which need a scrub, make of a state: the first of them, as many as the
scrub queue has places, go there, and the others are held. -/
structure State.Scrubs (s t : State) (l : List RecordIndex) : Prop where
  freed : ∀ i ∈ l.take (512 - s.scrubQueue.length), t.lease i = emptyRecord (s.lease i).generation
  kept : ∀ i ∈ l.drop (512 - s.scrubQueue.length), t.lease i = { s.lease i with retireHeld := true }
  others : ∀ i ∉ l, t.lease i = s.lease i
  scrubQueue : t.scrubQueue =
    s.scrubQueue ++ (l.take (512 - s.scrubQueue.length)).map (fun i => (s.lease i).extent)
  held : t.held = s.held ++ l.drop (512 - s.scrubQueue.length)
  scrubSlot : t.scrubSlot =
    if s.scrubQueue = [] ∧ s.phase = .ready ∧ s.scrubSlot = none then l.head?.map (fun i => (s.lease i).base)
    else s.scrubSlot

theorem State.Scrubs.nil (s : State) : s.Scrubs s [] where
  freed := by simp
  kept := by simp
  others _ _ := rfl
  scrubQueue := by simp
  held := by simp
  scrubSlot := by
    split
    · next h => exact h.2.2
    · rfl

/-- A step that finds a place in the queue, before the others. -/
theorem State.Scrubs.cons_joins {s t u : State} {i : RecordIndex} {l : List RecordIndex}
    (hlen : s.scrubQueue.length < 512) (ht : t = (s.freeRecord i).joinScrubQueue (s.lease i).extent) (hi : i ∉ l)
    (h : t.Scrubs u l) : s.Scrubs u (i :: l) := by
  rw [State.joinScrubQueue_eq] at ht
  have hlease : ∀ j, t.lease j = if i = j then emptyRecord (s.lease i).generation else s.lease j := fun j => by
    rw [ht]; exact State.lease_freeRecord s i j
  have hother : ∀ j ∈ l, t.lease j = s.lease j := fun j hj => by
    rw [hlease, if_neg (ne_of_mem_of_not_mem hj hi).symm]
  have hqueue : t.scrubQueue = s.scrubQueue ++ [(s.lease i).extent] := by rw [ht]; rfl
  have hheld : t.held = s.held := by rw [ht]; rfl
  have hslot : t.scrubSlot =
      if s.scrubQueue = [] ∧ s.phase = .ready ∧ s.scrubSlot = none then some (s.lease i).base
      else s.scrubSlot := by rw [ht]; rfl
  obtain ⟨n, hn⟩ : ∃ n, 512 - s.scrubQueue.length = n + 1 := ⟨511 - s.scrubQueue.length, by omega⟩
  have hn' : 512 - t.scrubQueue.length = n := by rw [hqueue, List.length_append, List.length_singleton]; omega
  obtain ⟨hfreed, hkept, hothers, hq, hh, hs⟩ := h
  rw [hn'] at hfreed hkept hq hh
  refine ⟨fun j hj => ?_, fun j hj => ?_, fun j hj => ?_, ?_, ?_, ?_⟩
  · rw [hn, List.take_succ_cons] at hj
    rcases List.mem_cons.1 hj with rfl | hj
    · rw [hothers _ hi, hlease, if_pos rfl]
    · rw [hfreed j hj, hother j (List.mem_of_mem_take hj)]
  · rw [hn, List.drop_succ_cons] at hj
    rw [hkept j hj, hother j (List.mem_of_mem_drop hj)]
  · rw [List.mem_cons, not_or] at hj
    rw [hothers j hj.2, hlease, if_neg (Ne.symm hj.1)]
  · have hmap : (l.take n).map (fun j => (t.lease j).extent) = (l.take n).map (fun j => (s.lease j).extent) :=
      List.map_congr_left fun j hj => by rw [hother j (List.mem_of_mem_take hj)]
    rw [hq, hqueue, hmap, hn, List.append_assoc]
    rfl
  · rw [hh, hheld, hn, List.drop_succ_cons]
  · rw [hs, if_neg (by simp [hqueue]), hslot]
    rfl

/-- A step that finds the queue full, before the others, which find it full too. -/
theorem State.Scrubs.cons_holds {s t u : State} {i : RecordIndex} {l : List RecordIndex}
    (hlen : 512 ≤ s.scrubQueue.length)
    (ht : t = { s.setLease i { s.lease i with retireHeld := true } with held := s.held ++ [i] }) (hi : i ∉ l)
    (h : t.Scrubs u l) : s.Scrubs u (i :: l) := by
  have hlease : ∀ j, t.lease j = if i = j then { s.lease i with retireHeld := true } else s.lease j := fun j => by
    rw [ht]; exact State.lease_setLease s i j _
  have hqueue : t.scrubQueue = s.scrubQueue := by rw [ht]; rfl
  have hheld : t.held = s.held ++ [i] := by rw [ht]
  have hslot : t.scrubSlot = s.scrubSlot := by rw [ht]; rfl
  have hn : 512 - s.scrubQueue.length = 0 := by omega
  have hne : s.scrubQueue ≠ [] := fun hnil => by simp [hnil] at hlen
  obtain ⟨-, hkept, hothers, hq, hh, hs⟩ := h
  rw [hqueue, hn] at hkept hq hh
  refine ⟨fun j hj => ?_, fun j hj => ?_, fun j hj => ?_, ?_, ?_, ?_⟩
  · simp [hn] at hj
  · rw [hn, List.drop_zero] at hj
    rcases List.mem_cons.1 hj with rfl | hj
    · rw [hothers _ hi, hlease, if_pos rfl]
    · rw [hkept j (by simpa using hj), hlease, if_neg (ne_of_mem_of_not_mem hj hi).symm]
  · rw [List.mem_cons, not_or] at hj
    rw [hothers j hj.2, hlease, if_neg (Ne.symm hj.1)]
  · rw [hq, hn]
    simp
  · rw [hh, hheld, hn, List.append_assoc]
    rfl
  · rw [hs, hqueue, if_neg (fun h => hne h.1), if_neg (fun h => hne h.1), hslot]

/-- The retirement steps of distinct records that all need a scrub. -/
theorem Work.foldl_retire_scrubs : ∀ (l : List RecordIndex) (w : Work), l.Nodup →
    (∀ i ∈ l, w.st.needsScrub (w.st.lease i) = true) → w.st.Scrubs (l.foldl Work.retire w).st l := by
  intro l
  induction l with
  | nil => exact fun w _ _ => .nil w.st
  | cons i rest ih =>
    intro w hnodup hneeds
    obtain ⟨hnot, hrest⟩ := List.nodup_cons.1 hnodup
    have hscrubs := ih (w.retire i) hrest fun j hj => by
      rw [(w.retire_onTable i).needsScrub, (w.retire_others (ne_of_mem_of_not_mem hj hnot)).1]
      exact hneeds j (List.mem_cons_of_mem i hj)
    have hi := hneeds i List.mem_cons_self
    rcases w.retire_cases i with ⟨hn, -⟩ | ⟨-, hlen, h⟩ | ⟨-, hlen, h⟩
    · exact absurd hn (by simp [hi])
    · exact hscrubs.cons_joins hlen (by rw [h]; rfl) hnot
    · exact hscrubs.cons_holds hlen (by rw [h]; rfl) hnot

/-! ## The lease table's part of a fence start (R76) -/

/-- The lease table after it has lost the port, with the open order of the retirement steps that need a scrub. -/
structure State.LosesPort (s t : State) (p : Port) (order : List RecordIndex) : Prop where
  perm : order.Perm ((List.finRange 256).filter (fun i => retiresAtFence s p i && scrubNeeded s (s.lease i)))
  untouched : ∀ i ∉ s.fencedLeases p, t.lease i = s.lease i
  left : ∀ i ∈ s.fencedLeases p, retiresAtFence s p i = false → t.lease i = (s.lease i).fenceOff p
  plain : ∀ i, retiresAtFence s p i = true → scrubNeeded s (s.lease i) = false →
    t.lease i = emptyRecord (s.lease i).generation
  freed : ∀ i ∈ order.take (512 - s.scrubQueue.length), t.lease i = emptyRecord (s.lease i).generation
  kept : ∀ i ∈ order.drop (512 - s.scrubQueue.length),
    t.lease i = { drainingRecord (s.lease i) .fenced with retireHeld := true }
  scrubQueue : t.scrubQueue =
    s.scrubQueue ++ (order.take (512 - s.scrubQueue.length)).map (fun i => (s.lease i).extent)
  held : t.held = s.held ++ order.drop (512 - s.scrubQueue.length)
  scrubSlot : t.scrubSlot =
    if s.scrubQueue = [] ∧ s.phase = .ready ∧ s.scrubSlot = none then order.head?.map (fun i => (s.lease i).base)
    else s.scrubSlot

/-- A lease that retires at a fence start was left without holder. -/
theorem LeaseRecord.fenceOff_of_retires {s : State} {p : Port} {i : RecordIndex} (h : retiresAtFence s p i = true) :
    (s.lease i).fenceOff p = drainingRecord (s.lease i) .fenced := by
  simp only [retiresAtFence, Bool.and_eq_true] at h
  exact LeaseRecord.fenceOff_of_none_left h.1.2

/-- The three lists of a fence start put together: the records that lost the port, those freed at once, and those
that need a scrub, in some order. -/
theorem State.LosesPort.of_steps {s t1 t2 t3 : State} {p : Port} {order : List RecordIndex}
    (hperm : order.Perm ((List.finRange 256).filter (fun i => retiresAtFence s p i && scrubNeeded s (s.lease i))))
    (hoff : ∀ i ∈ s.fencedLeases p, t1.lease i = (s.lease i).fenceOff p)
    (hnot : ∀ i ∉ s.fencedLeases p, t1.lease i = s.lease i)
    (hplain : ∀ i, retiresAtFence s p i = true → scrubNeeded s (s.lease i) = false →
      t2.lease i = emptyRecord (t1.lease i).generation)
    (hrest : ∀ i, retiresAtFence s p i = false ∨ scrubNeeded s (s.lease i) = true → t2.lease i = t1.lease i)
    (heq : t2 = { s with leases := t2.leases }) (hscrubs : t2.Scrubs t3 order) : s.LosesPort t3 p order := by
  have horder : ∀ i, i ∈ order ↔ retiresAtFence s p i = true ∧ scrubNeeded s (s.lease i) = true := fun i => by
    rw [hperm.mem_iff]; simp
  have hretires : ∀ i, retiresAtFence s p i = true → t1.lease i = drainingRecord (s.lease i) .fenced := fun i hi => by
    rw [hoff i (retiresAtFence_iff.1 hi).1, LeaseRecord.fenceOff_of_retires hi]
  have hmem : ∀ i ∈ order, t2.lease i = drainingRecord (s.lease i) .fenced := fun i hi => by
    rw [hrest i (.inr ((horder i).1 hi).2), hretires i ((horder i).1 hi).1]
  have hqueue : t2.scrubQueue = s.scrubQueue := by rw [heq]
  have hheld : t2.held = s.held := by rw [heq]
  have hslot : t2.scrubSlot = s.scrubSlot := by rw [heq]
  have hphase : t2.phase = s.phase := by rw [heq]
  obtain ⟨hfreed, hkept, hothers, hq, hh, hs⟩ := hscrubs
  rw [hqueue] at hfreed hkept hq hh hs
  refine ⟨hperm, fun i hi => ?_, fun i hi hr => ?_, fun i hr hn => ?_, fun i hi => ?_, fun i hi => ?_, ?_, ?_, ?_⟩
  · have hr : retiresAtFence s p i = false := by
      rw [← Bool.not_eq_true, retiresAtFence_iff]
      exact fun h => hi h.1
    rw [hothers i (by simp [horder, hr]), hrest i (.inl hr), hnot i hi]
  · rw [hothers i (by simp [horder, hr]), hrest i (.inl hr), hoff i hi]
  · rw [hothers i (by simp [horder, hn]), hplain i hr hn, hretires i hr]
    rfl
  · rw [hfreed i hi, hmem i (List.mem_of_mem_take hi)]
    rfl
  · rw [hkept i hi, hmem i (List.mem_of_mem_drop hi)]
  · rw [hq]
    exact congrArg _ (List.map_congr_left fun i hi => by rw [hmem i (List.mem_of_mem_take hi)]; rfl)
  · rw [hh, hheld]
  · rw [hs, hphase, hslot]
    refine if_congr Iff.rfl ?_ rfl
    cases order with
    | nil => rfl
    | cons i rest =>
      rw [List.head?_cons, Option.map_some, Option.map_some, hmem i List.mem_cons_self]
      rfl

theorem State.LosesPort.setChoices {s t : State} {p : Port} {order : List RecordIndex} (h : s.LosesPort t p order)
    (n : Nat) : s.LosesPort { t with choices := n } p order :=
  ⟨h.perm, h.untouched, h.left, h.plain, h.freed, h.kept, h.scrubQueue, h.held, h.scrubSlot⟩

theorem Work.fenceLeases_losesPort (w : Work) (p : Port) :
    ∃ order, w.st.LosesPort (w.fenceLeases p).st p order := by
  unfold Work.fenceLeases
  extract_lets ids w1 done plain scrubbed w2 w3
  have hids : ids.Nodup := (List.nodup_finRange 256).filter _
  obtain ⟨hoff, hnot, hw1⟩ := Work.foldl_fenceOff p ids w w1 hids rfl
  have hdone : ∀ i, i ∈ done ↔ retiresAtFence w.st p i = true := fun i => by
    rw [retiresAtFence_iff, List.mem_filter]
    exact and_congr_right fun hi => by rw [decide_eq_true_iff, hoff i hi]
  have hneeds : ∀ i ∈ done, w1.st.needsScrub (w1.st.lease i) = scrubNeeded w.st (w.st.lease i) := fun i hi => by
    rw [hoff i (List.mem_of_mem_filter hi), hw1, ← State.needsScrub_eq]
    exact w.st.needsScrub_fenceOff _ p
  have hplain : ∀ i, i ∈ plain ↔ retiresAtFence w.st p i = true ∧ scrubNeeded w.st (w.st.lease i) = false := fun i => by
    rw [List.mem_filter, hdone]
    exact and_congr_right fun hi => by rw [hneeds i ((hdone i).2 hi), Bool.not_eq_true']
  have hscrubbed : ∀ i, i ∈ scrubbed ↔ retiresAtFence w.st p i = true ∧ scrubNeeded w.st (w.st.lease i) = true :=
    fun i => by
      rw [List.mem_filter, hdone]
      exact and_congr_right fun hi => by rw [hneeds i ((hdone i).2 hi)]
  have hnodup : done.Nodup := hids.filter _
  obtain ⟨hempty, hkept, hw2⟩ := Work.foldl_retire_plain plain w1 w2 (hnodup.filter _)
    (fun i hi => by rw [hneeds i (List.mem_of_mem_filter hi), ((hplain i).1 hi).2]) rfl
  have hperm : (anyOrder scrubbed.length w2.st.choices scrubbed).Perm scrubbed := anyOrder_perm _ _ _
  have hscrubs : w2.st.Scrubs w3.st (anyOrder scrubbed.length w2.st.choices scrubbed) :=
    Work.foldl_retire_scrubs _ w2 (hperm.nodup_iff.2 (hnodup.filter _)) fun i hi => by
      have hi' := hperm.mem_iff.1 hi
      have hni : i ∉ plain := fun hp => by simpa [((hscrubbed i).1 hi').2] using (hplain i).1 hp
      rw [hkept i hni, hw2]
      exact (hneeds i (List.mem_of_mem_filter hi')).trans ((hscrubbed i).1 hi').2
  clear_value w3
  refine ⟨_, (State.LosesPort.of_steps (t1 := w1.st) (t2 := w2.st) (hperm.trans ?_) hoff hnot
    (fun i hr hn => hempty i ((hplain i).2 ⟨hr, hn⟩)) (fun i hi => hkept i ?_) ?_ hscrubs).setChoices _⟩
  · exact (List.perm_ext_iff_of_nodup (hnodup.filter _) ((List.nodup_finRange 256).filter _)).2 fun i => by
      rw [hscrubbed]; simp
  · rw [hplain]
    rcases hi with hi | hi <;> simp [hi]
  · rw [hw2, hw1]

/-! ## The whole fence start (R146) -/

theorem State.slotsOf_eq_nil_iff (s : State) (p : Port) : s.slotsOf p = [] ↔ s.NoSlots p := by
  refine ⟨State.noSlots_of_slotsOf, fun h => List.filter_eq_nil_iff.2 fun x hx => ?_⟩
  obtain ⟨y, hy, rfl⟩ := List.mem_filterMap.1 hx
  obtain ⟨n, hn, hslot⟩ := List.getElem_of_mem hy
  have hlen : n < 63 := by simpa using hn
  simpa using h ⟨n, hlen⟩ x (by simpa [State.slot] using hslot)

theorem Work.mem_endFence_ending (w : Work) (p : Port) : p ∈ (w.endFence p).ending := by
  unfold Work.endFence
  split
  · assumption
  · simp

theorem Work.endFence_overflowed (w : Work) (p : Port) : (w.endFence p).overflowed = w.overflowed := by
  unfold Work.endFence
  split <;> rfl

theorem Work.endFence_scanDue (w : Work) (p : Port) : (w.endFence p).scanDue = w.scanDue := by
  unfold Work.endFence
  split <;> rfl

/-- What becomes due at a fence start: a scan, and the fence's own end where the port holds no slot. -/
theorem Work.fenceStart_due (w : Work) (p : Port) (c : FenceCause) (hello : Option HostId) :
    (w.fenceStart p c hello).scanDue = true ∧ (w.fenceStart p c hello).overflowed = w.overflowed ∧
      (w.st.NoSlots p → p ∈ (w.fenceStart p c hello).ending) ∧
      (¬ w.st.NoSlots p → (w.fenceStart p c hello).ending = w.ending) := by
  have hslots := (w.fenceStart_fenced p c hello).slots
  have hnone : (w.fenceStart p c hello).st.NoSlots p ↔ w.st.NoSlots p := by
    refine forall_congr' fun n => ?_
    rw [hslots]
    cases w.st.slot n with
    | none => simp
    | some x => by_cases hx : x.port = p <;> simp [hx]
  obtain ⟨w1, w2, w3, hw1, hw2, hw3, h⟩ := w.fenceStart_eq p c hello
  have hst : (w.fenceStart p c hello).st = w3.st := by
    rw [h]
    split
    · exact Work.endFence_st _ _
    · rfl
  rw [hst, ← State.slotsOf_eq_nil_iff] at hnone
  have hover : w3.overflowed = w.overflowed := by
    rw [hw3, hw2, Work.needScan_overflowed, Work.onState_overflowed, Work.onState_overflowed,
      (w1.fenceLeases_onTable p).overflowed, hw1, Work.onState_overflowed]
  have hending : w3.ending = w.ending := by
    rw [hw3, hw2, Work.needScan_ending, Work.onState_ending, Work.onState_ending,
      (w1.fenceLeases_onTable p).ending, hw1, Work.onState_ending]
  have hscan : w3.scanDue = true := by rw [hw3]; rfl
  rw [h]
  by_cases hs : w3.st.slotsOf p = []
  · rw [if_pos hs, Work.endFence_scanDue, Work.endFence_overflowed]
    exact ⟨hscan, hover, fun _ => w3.mem_endFence_ending p, fun hn => absurd (hnone.1 hs) hn⟩
  · rw [if_neg hs]
    exact ⟨hscan, hover, fun hn => absurd (hnone.2 hn) hs, fun _ => hending⟩

/-- Of the state only what a fence start may change is changed. -/
def State.FenceOnly (s t : State) : Prop :=
  t = { s with
    leases := t.leases, held := t.held, ports := t.ports, waitQueue := t.waitQueue, hostSlots := t.hostSlots
    scrubSlot := t.scrubSlot, scrubQueue := t.scrubQueue, alertCauses := t.alertCauses, choices := t.choices }

/-- The parts of a fence start put together: the lease table's, the alert, and what none of them changes. -/
theorem State.losesPort_of_parts {s t : State} {w1 w2 : Work} {p : Port} {r : PortRecord} {c : AlertCause}
    {f : WaitEntry → Bool} {order : List RecordIndex} (h1 : w1.st = (s.setPort p r).setAlert c) (h2 : w1.OnTable w2)
    (h3 : w1.st.LosesPort w2.st p order)
    (ht : t = State.orphanSlots { w2.st with waitQueue := w2.st.waitQueue.filter f } p) :
    s.LosesPort t p order ∧ t.alertCauses = addMember s.alertCauses c.bit ∧ s.FenceOnly t := by
  have hst := h2.st
  rw [h1] at h3 hst
  subst ht
  refine ⟨⟨h3.perm, h3.untouched, h3.left, h3.plain, h3.freed, h3.kept, h3.scrubQueue, h3.held, h3.scrubSlot⟩, ?_, ?_⟩
  · show w2.st.alertCauses = _
    rw [hst]
    rfl
  · unfold State.FenceOnly
    rw [hst]
    rfl

theorem Work.fenceStart_losesPort (w : Work) (p : Port) (c : FenceCause) (hello : Option HostId) :
    ∃ order, w.st.LosesPort (w.fenceStart p c hello).st p order ∧
      (w.fenceStart p c hello).st.alertCauses = addMember w.st.alertCauses p.val ∧
      w.st.FenceOnly (w.fenceStart p c hello).st := by
  obtain ⟨order, h⟩ := Work.fenceLeases_losesPort
    (w.onState (fun s => (s.setPort p ((s.port p).fence c hello)).setAlert (.portFenced p))) p
  exact ⟨order, State.losesPort_of_parts (Work.onState_st _ _) (Work.fenceLeases_onTable _ p) h
    (w.fenceStart_st p c hello)⟩

/-- Settles O39: the port, its queue entries and its slots by `Work.fenceStart_fenced`, the lease table by
`Work.fenceStart_losesPort`, and what is due by `Work.fenceStart_due`. -/
theorem fenceStartOutcome : Obligations.FenceStartOutcome := by
  rintro w p c hello v rfl
  have hfenced := w.fenceStart_fenced p c hello
  obtain ⟨hscan, hover, hend, hstay⟩ := w.fenceStart_due p c hello
  obtain ⟨order, hloses, halert, honly⟩ := w.fenceStart_losesPort p c hello
  generalize w.fenceStart p c hello = v at hfenced hscan hover hend hstay hloses halert honly ⊢
  refine ⟨(hfenced.ports p).trans (if_pos rfl), fun q hq => (hfenced.ports q).trans (if_neg (Ne.symm hq)),
    hfenced.waitQueue, fun n => ?_, fun i hi => hloses.untouched i ?_, fun i hforce hstanding hholds => ⟨?_, ?_⟩,
    hloses.plain, ⟨order, hloses.perm, hloses.freed, hloses.kept, hloses.scrubQueue, hloses.held, hloses.scrubSlot⟩,
    halert, ?_, ?_, honly, hscan, hover, hend, fun ⟨n, x, hx, hp⟩ => hstay fun hno => hno n x hx hp⟩
  · rw [hfenced.slots]
    cases w.st.slot n with
    | none => rfl
    | some x => exact apply_ite some _ _ _
  · rw [State.mem_fencedLeases_iff]
    rintro ⟨hforce, hstanding, hholds⟩
    simp [hforce, hstanding, hholds] at hi
  · intro hothers
    rw [hloses.left i (State.mem_fencedLeases_iff.2 ⟨hforce, hstanding, hholds⟩) (retiresAtFence_of_others hothers),
      LeaseRecord.fenceOff_of_others hothers]
    rfl
  · intro hall hcount
    have hr : retiresAtFence w.st p i = false := by simp [retiresAtFence, hcount]
    rw [hloses.left i (State.mem_fencedLeases_iff.2 ⟨hforce, hstanding, hholds⟩) hr,
      LeaseRecord.fenceOff_of_none_left hall]
  · rw [honly]
  · rw [honly]

end Sys2Proof.Machine
end

section
/-! Byte layouts (R179): what stands at an offset of a concatenation of fields of known sizes. -/

namespace Sys2Proof.Machine

open Sys2Proof.Safety

/-! ## Little-endian fields -/

@[simp] theorem length_leBytes (n v : Nat) : (leBytes n v).length = n := by
  induction n generalizing v with
  | zero => rfl
  | succ n ih => rw [leBytes, List.length_cons, ih]

theorem getElem?_leBytes {n k : Nat} (hk : k < n) (v : Nat) :
    (leBytes n v)[k]? = some (BitVec.ofNat 8 (v / 256 ^ k)) := by
  induction n generalizing k v with
  | zero => omega
  | succ n ih =>
    cases k with
    | zero => simp [leBytes]
    | succ k => rw [leBytes, List.getElem?_cons_succ, ih (by omega), Nat.div_div_eq_div_mul, Nat.pow_succ']

theorem leBytes_one (v : Nat) : leBytes 1 v = [BitVec.ofNat 8 v] := rfl

theorem leBytes_zero_append (m n : Nat) : leBytes m 0 ++ leBytes n 0 = leBytes (m + n) 0 := by
  induction m with
  | zero => simp [leBytes]
  | succ m ih => rw [Nat.succ_add, leBytes, leBytes, List.cons_append, Nat.zero_div, ih]

theorem replicate_zero_eq_leBytes (n : Nat) : List.replicate n (0 : Byte) = leBytes n 0 := by
  induction n with
  | zero => rfl
  | succ n ih => rw [List.replicate_succ, leBytes, Nat.zero_div, ih]; rfl

/-! ## Bytes at an offset -/

/-- From the offset on, the bytes hold these bytes. -/
def bytesAt (l : List Byte) (offset : Nat) (b : List Byte) : Prop :=
  ∀ k, k < b.length → l[offset + k]? = b[k]?

theorem bytesAt_of_eq {l b : List Byte} (h : l = b) : bytesAt l 0 b := fun k _ => by rw [h, Nat.zero_add]

theorem bytesAt_append {l : List Byte} {o : Nat} {a b : List Byte} :
    bytesAt l o (a ++ b) ↔ bytesAt l o a ∧ bytesAt l (o + a.length) b := by
  refine ⟨fun h => ⟨fun k hk => ?_, fun k hk => ?_⟩, fun ⟨ha, hb⟩ k hk => ?_⟩
  · rw [h k (by simp; omega), List.getElem?_append_left hk]
  · rw [Nat.add_assoc, h _ (by simpa using hk), List.getElem?_append_right (by omega), Nat.add_sub_cancel_left]
  · by_cases hka : k < a.length
    · rw [ha k hka, List.getElem?_append_left hka]
    · obtain ⟨j, rfl⟩ := Nat.exists_eq_add_of_le (not_lt.1 hka)
      rw [← Nat.add_assoc, hb j (by simpa using hk), List.getElem?_append_right (by omega), Nat.add_sub_cancel_left]

/-- A little-endian field in its place is what the statements say of it. -/
theorem bytesAt_leBytes {l : List Byte} {o n v : Nat} : bytesAt l o (leBytes n v) ↔ holdsAt l o n v := by
  unfold bytesAt holdsAt
  rw [length_leBytes]
  exact forall₂_congr fun k hk => by rw [getElem?_leBytes hk]

/-- Two fields, one behind the other. -/
theorem bytesAt_pair {l : List Byte} {o m n x y : Nat} (h : bytesAt l o (leBytes m x ++ leBytes n y)) :
    holdsAt l o m x ∧ holdsAt l (o + m) n y := by
  rwa [bytesAt_append, bytesAt_leBytes, bytesAt_leBytes, length_leBytes] at h

/-- A block of fixed size among others of the same size. -/
theorem bytesAt_flatMap {α : Type} {f : α → List Byte} {n : Nat} {l : List Byte} : ∀ {xs : List α} {o k : Nat} {x : α},
    (∀ y ∈ xs, (f y).length = n) → bytesAt l o (xs.flatMap f) → xs[k]? = some x → bytesAt l (o + n * k) (f x)
  | [], _, _, _, _, _, hx => by simp at hx
  | y :: ys, o, k, x, hn, h, hx => by
    rw [List.flatMap_cons, bytesAt_append, hn y List.mem_cons_self] at h
    cases k with
    | zero =>
      obtain rfl : y = x := by simpa using hx
      exact h.1
    | succ k =>
      rw [Nat.mul_succ, Nat.add_comm (n * k), ← Nat.add_assoc]
      exact bytesAt_flatMap (fun z hz => hn z (List.mem_cons_of_mem y hz)) h.2 (by simpa using hx)

theorem length_flatMap_of_size {α : Type} {f : α → List Byte} {n : Nat} : ∀ {xs : List α},
    (∀ y ∈ xs, (f y).length = n) → (xs.flatMap f).length = n * xs.length
  | [], _ => rfl
  | y :: ys, hn => by
    rw [List.flatMap_cons, List.length_append, hn y List.mem_cons_self,
      length_flatMap_of_size fun z hz => hn z (List.mem_cons_of_mem y hz), List.length_cons, Nat.mul_succ, Nat.add_comm]

/-! ## Fields that may be absent (R179) -/

@[simp] theorem length_presence (n : Nat) (v : Option Nat) : (presence n v).length = n + 1 := by
  rw [presence, List.length_append, length_leBytes, length_leBytes, Nat.add_comm]

theorem presence_none (n : Nat) : presence n none = leBytes (n + 1) 0 := by
  rw [Nat.add_comm, ← leBytes_zero_append]
  rfl

theorem bytesAt_presence_none {l : List Byte} {o n : Nat} (h : bytesAt l o (presence n none)) :
    holdsAt l o (n + 1) 0 := by
  rwa [presence_none, bytesAt_leBytes] at h

theorem bytesAt_presence_some {l : List Byte} {o n v : Nat} (h : bytesAt l o (presence n (some v))) :
    holdsAt l o 1 1 ∧ holdsAt l (o + 1) n v := bytesAt_pair h

@[simp] theorem length_deadlineBytes (d : Option ClockValue) : (deadlineBytes d).length = 5 := length_presence _ _

theorem bytesAt_deadlineBytes {l : List Byte} {o : Nat} {d : Option ClockValue} (h : bytesAt l o (deadlineBytes d)) :
    holdsDeadline l o d := by
  cases d with
  | none => exact bytesAt_presence_none h
  | some c => exact bytesAt_presence_some h

/-! ## Codes (section 12.1) -/

theorem causeCode_eq (c : Option RevokeCause) : causeCode c = revokeCauseCode c := by
  cases c with
  | none => rfl
  | some c => cases c <;> rfl

theorem Handle.bytes_eq (h : Handle) : h.bytes = leBytes 1 h.index.val ++ leBytes 2 h.generation.toNat := rfl

end Sys2Proof.Machine
end

section
/-! The result layouts of the lease table and the wait queue (section 12.3.1): record view, LEASE_NEXT, WAIT_READ and
SCRUB_READ. -/

namespace Sys2Proof.Machine

open Sys2Proof.Safety

/-! ## Record views (R171) -/

@[simp] theorem Holder.length_bytes (h : Holder) : h.bytes.length = 9 := by
  simp [Holder.bytes]

@[simp] theorem length_holderPlaces (l : List Holder) : (holderPlaces l).length = 36 := by
  simp [holderPlaces]

/-- A byte of the four holder places, which are cut off from holder blocks and zeros. -/
theorem bytesAt_holderPlaces {v : List Byte} {o k : Nat} {l : List Holder} {c : List Byte}
    (h : bytesAt v o (holderPlaces l)) (hk : k + c.length ≤ 36)
    (hc : bytesAt (l.flatMap Holder.bytes ++ List.replicate 36 0) k c) : bytesAt v (o + k) c := by
  intro j hj
  rw [Nat.add_assoc, h _ (by rw [length_holderPlaces]; omega), holderPlaces, List.getElem?_take_of_lt (by omega)]
  exact hc j hj

theorem holderPlaces_holder {v : List Byte} {o k : Nat} {l : List Holder} {x : Holder}
    (h : bytesAt v o (holderPlaces l)) (hk : k < 4) (hx : l[k]? = some x) : bytesAt v (o + 9 * k) x.bytes := by
  refine bytesAt_holderPlaces h (by rw [Holder.length_bytes]; omega) ?_
  have hblocks := (bytesAt_append.1 (bytesAt_of_eq (rfl : l.flatMap Holder.bytes ++ List.replicate 36 0 = _))).1
  have hblock := bytesAt_flatMap (fun y _ => y.length_bytes) hblocks hx
  rwa [Nat.zero_add] at hblock

theorem holderPlaces_empty {v : List Byte} {o k : Nat} {l : List Holder} (h : bytesAt v o (holderPlaces l))
    (hk : k < 4) (hl : l.length ≤ k) : holdsAt v (o + 9 * k) 9 0 := by
  rw [← bytesAt_leBytes]
  refine bytesAt_holderPlaces h (by rw [length_leBytes]; omega) fun j hj => ?_
  rw [length_leBytes] at hj
  rw [List.getElem?_append_right (by rw [length_flatMap_of_size fun y _ => y.length_bytes]; omega),
    length_flatMap_of_size fun y _ => y.length_bytes, List.getElem?_replicate_of_lt (by omega),
    ← replicate_zero_eq_leBytes, List.getElem?_replicate_of_lt hj]

/-- The fields of a record view, each at its offset. -/
theorem State.recordView_fields {s : State} {i : RecordIndex} {r : LeaseRecord} {v : List Byte} (hr : r = s.lease i)
    (hv : v = s.recordView i) :
    holdsAt v 0 1 i.val ∧ holdsAt v 1 2 r.generation.toNat ∧ holdsAt v 3 1 r.state.code ∧
      holdsAt v 4 1 (kindCode r.kind) ∧ holdsAt v 5 1 (indexCode r.standing) ∧ holdsAt v 6 1 (boolCode r.written) ∧
      holdsAt v 7 2 r.base ∧ holdsAt v 9 3 r.count ∧ holdsAt v 12 1 r.holders.length ∧
      bytesAt v 13 (holderPlaces r.holders) ∧ holdsAt v 49 1 (indexCode r.creator) ∧
      holdsAt v 50 1 (causeCode (r.notice.map Notice.cause)) ∧
      holdsAt v 51 4 ((r.notice.map (fun n => n.deadline.toNat)).getD 0) ∧ holdsAt v 55 1 (causeCode r.revokeCause) ∧
      holdsAt v 56 1 r.drainCount ∧ bytesAt v 57 (presence 5 (r.damage.map BitVec.toNat)) ∧
      holdsAt v 63 1 (boolCode r.retireHeld) ∧ holdsAt v 64 4 s.clock.toNat := by
  subst hr
  have h := bytesAt_of_eq hv
  unfold State.recordView at h
  simpa only [List.append_assoc, bytesAt_append, bytesAt_leBytes, length_leBytes, length_holderPlaces, length_presence,
    Nat.reduceAdd] using h

theorem State.length_recordView (s : State) (i : RecordIndex) : (s.recordView i).length = 68 := by
  unfold State.recordView
  simp only [List.length_append, length_leBytes, length_holderPlaces, length_presence]

/-- The fields of a holder place. -/
theorem Holder.bytes_fields {v : List Byte} {o : Nat} {h : Holder} (hb : bytesAt v o h.bytes) :
    holdsAt v o 1 h.port.val ∧ holdsAt v (o + 1) 1 h.right.code ∧ holdsAt v (o + 2) 2 h.term ∧
      holdsDeadline v (o + 4) h.deadline := by
  simp only [Holder.bytes, List.append_assoc, bytesAt_append, bytesAt_leBytes, length_leBytes] at hb
  obtain ⟨hport, hright, hterm, hdeadline⟩ := hb
  exact ⟨hport, hright, hterm, bytesAt_deadlineBytes hdeadline⟩

/-! ## LEASE_NEXT (R171) -/

/-- The order of the extent index: by base, and by index where bases are equal (R15). -/
def State.Precedes (s : State) (i j : RecordIndex) : Prop :=
  (s.lease i).base < (s.lease j).base ∨ ((s.lease i).base = (s.lease j).base ∧ i < j)

theorem State.mem_insertByBase (s : State) (i j : RecordIndex) (l : List RecordIndex) :
    j ∈ s.insertByBase i l ↔ j = i ∨ j ∈ l := by
  induction l with
  | nil => simp [State.insertByBase]
  | cons k rest ih =>
    unfold State.insertByBase
    split
    · simp
    · rw [List.mem_cons, ih, List.mem_cons]
      exact or_left_comm

/-- A record put into an ordered index of records with lower numbers. -/
theorem State.insertByBase_ordered {s : State} {i : RecordIndex} : ∀ {l : List RecordIndex},
    l.Pairwise s.Precedes → (∀ j ∈ l, j < i) → (s.insertByBase i l).Pairwise s.Precedes
  | [], _, _ => List.pairwise_singleton _ _
  | k :: rest, h, hlt => by
    obtain ⟨hk, hrest⟩ := List.pairwise_cons.1 h
    unfold State.insertByBase
    split
    · next hbase =>
      refine List.pairwise_cons.2 ⟨fun j hj => ?_, h⟩
      rcases List.mem_cons.1 hj with rfl | hj
      · exact .inl hbase
      · exact .inl ((hk j hj).elim hbase.trans fun h' => h'.1 ▸ hbase)
    · next hbase =>
      refine List.pairwise_cons.2 ⟨fun j hj => ?_,
        State.insertByBase_ordered hrest fun j hj => hlt j (List.mem_cons_of_mem k hj)⟩
      rcases (s.mem_insertByBase i j rest).1 hj with rfl | hj
      · exact (not_lt.1 hbase).lt_or_eq.imp_right fun h' => ⟨h', hlt k List.mem_cons_self⟩
      · exact hk j hj

/-- The index built from records in rising order holds them all, in its order. -/
theorem State.foldl_insertByBase {s : State} : ∀ {todo : List RecordIndex} {l : List RecordIndex},
    todo.Pairwise (· < ·) → l.Pairwise s.Precedes → (∀ i ∈ todo, ∀ j ∈ l, j < i) →
    (todo.foldl (fun l i => s.insertByBase i l) l).Pairwise s.Precedes ∧
      ∀ j, j ∈ todo.foldl (fun l i => s.insertByBase i l) l ↔ j ∈ todo ∨ j ∈ l
  | [], l, _, hl, _ => ⟨hl, by simp⟩
  | i :: rest, l, htodo, hl, hlt => by
    obtain ⟨hi, hrest⟩ := List.pairwise_cons.1 htodo
    obtain ⟨hordered, hmem⟩ := State.foldl_insertByBase hrest
      (State.insertByBase_ordered hl (hlt i List.mem_cons_self)) fun k hk j hj => by
        rcases (s.mem_insertByBase i j l).1 hj with rfl | hj
        · exact hi k hk
        · exact hlt k (List.mem_cons_of_mem i hk) j hj
    refine ⟨hordered, fun j => ?_⟩
    rw [List.foldl_cons, hmem, State.mem_insertByBase, List.mem_cons]
    exact or_left_comm.trans or_assoc.symm

/-- The extent index holds the live records in its order. -/
theorem State.extentIndex_ordered (s : State) :
    s.extentIndex.Pairwise s.Precedes ∧ ∀ i, i ∈ s.extentIndex ↔ (s.lease i).live = true := by
  obtain ⟨hordered, hmem⟩ := State.foldl_insertByBase (s := s) (l := [])
    ((List.pairwise_lt_finRange 256).filter (fun i => (s.lease i).live)) .nil (by simp)
  exact ⟨hordered, fun i => by rw [State.extentIndex, hmem]; simp⟩

/-- LEASE_NEXT finds no record: none is at or above the granule. -/
theorem State.leaseAtOrAbove_none {s : State} {g : Nat} (h : s.leaseAtOrAbove g = none) (i : RecordIndex)
    (hi : (s.lease i).live = true) : (s.lease i).base < g := by
  simpa using List.find?_eq_none.1 h i ((s.extentIndex_ordered.2 i).2 hi)

/-- LEASE_NEXT finds the first record at or above the granule. -/
theorem State.leaseAtOrAbove_some {s : State} {g : Nat} {i : RecordIndex} (h : s.leaseAtOrAbove g = some i) :
    (s.lease i).live = true ∧ g ≤ (s.lease i).base ∧ ∀ j, (s.lease j).live = true → g ≤ (s.lease j).base →
      (s.lease i).base < (s.lease j).base ∨ ((s.lease i).base = (s.lease j).base ∧ i ≤ j) := by
  obtain ⟨hordered, hmem⟩ := s.extentIndex_ordered
  obtain ⟨hg, before, after, hsplit, hbefore⟩ := List.find?_eq_some_iff_append.1 h
  refine ⟨(hmem i).1 (by simp [hsplit]), of_decide_eq_true hg, fun j hj hgj => ?_⟩
  have hj' := (hmem j).2 hj
  rw [hsplit, List.mem_append, List.mem_cons] at hj'
  rcases hj' with hj' | rfl | hj'
  · simpa [hgj] using hbefore j hj'
  · exact .inr ⟨rfl, le_refl _⟩
  · rw [hsplit] at hordered
    exact ((List.pairwise_cons.1 (List.pairwise_append.1 hordered).2.1).1 j hj').imp_right
      fun h' => ⟨h'.1, h'.2.le⟩

theorem State.nextView_of_none {s : State} {g : Nat} (h : s.leaseAtOrAbove g = none) : s.nextView g = [0] := by
  unfold State.nextView
  rw [h]
  rfl

theorem State.nextView_of_some {s : State} {g : Nat} {i : RecordIndex} (h : s.leaseAtOrAbove g = some i) :
    s.nextView g =
      1 :: s.recordView i ++
        BitVec.ofNat 8 (s.sameBase i).length :: (s.sameBase i).map (fun j => BitVec.ofNat 8 j.val) := by
  unfold State.nextView
  simp only [h, leBytes_one, List.map_eq_flatMap, List.append_assoc, List.cons_append, List.nil_append,
    BitVec.ofNat_eq_ofNat]

/-! ## WAIT_READ and SCRUB_READ (R74, R103) -/

@[simp] theorem WaitEntry.length_bytes (e : WaitEntry) : e.bytes.length = 14 := by
  simp only [WaitEntry.bytes, List.length_append, length_leBytes]

theorem State.length_waitView (s : State) : s.waitView.length = 5 + 14 * s.waitQueue.length := by
  rw [State.waitView, List.length_append, List.length_append, length_leBytes, length_leBytes,
    length_flatMap_of_size fun y _ => y.length_bytes]

/-- The fields of the head of WAIT_READ, and the place of each entry. -/
theorem State.waitView_fields {s : State} {v : List Byte} (hv : v = s.waitView) :
    holdsAt v 0 4 s.clock.toNat ∧ holdsAt v 4 1 s.waitQueue.length ∧
      ∀ k e, s.waitQueue[k]? = some e → bytesAt v (5 + 14 * k) e.bytes := by
  have h := bytesAt_of_eq hv
  simp only [State.waitView, List.append_assoc, bytesAt_append, bytesAt_leBytes, length_leBytes, Nat.reduceAdd] at h
  exact ⟨h.1, h.2.1, fun k e he => bytesAt_flatMap (fun y _ => y.length_bytes) h.2.2 he⟩

/-- The fields of a wait-queue entry. -/
theorem WaitEntry.bytes_fields {v : List Byte} {o : Nat} {e : WaitEntry} (h : bytesAt v o e.bytes) :
    holdsAt v o 1 e.port.val ∧ holdsAt v (o + 1) 1 e.tag.val ∧ holdsAt v (o + 2) 1 e.kind.code ∧
      holdsAt v (o + 3) 2 e.base ∧ holdsAt v (o + 5) 3 e.count ∧ holdsAt v (o + 8) 2 e.term ∧
      holdsAt v (o + 10) 4 e.deadline.toNat := by
  simpa only [WaitEntry.bytes, List.append_assoc, bytesAt_append, bytesAt_leBytes, length_leBytes, Nat.add_assoc,
    Nat.reduceAdd] using h

theorem State.length_scrubView (s : State) : s.scrubView.length = 13 := by
  simp only [State.scrubView, List.length_append, length_leBytes]

/-- The fields of SCRUB_READ. -/
theorem State.scrubView_fields {s : State} {v : List Byte} (hv : v = s.scrubView) :
    holdsAt v 0 2 s.scrubQueue.length ∧ holdsAt v 2 1 (boolCode s.scrubQueue.head?.isSome) ∧
      holdsAt v 3 2 ((s.scrubQueue.head?.map Extent.base).getD 0) ∧
      holdsAt v 5 3 ((s.scrubQueue.head?.map Extent.count).getD 0) ∧ holdsAt v 8 1 (boolCode s.scrubSlot.isSome) ∧
      holdsAt v 9 2 (s.scrubSlot.getD 0) ∧ holdsAt v 11 2 s.held.length := by
  have h := bytesAt_of_eq hv
  simpa only [State.scrubView, List.append_assoc, bytesAt_append, bytesAt_leBytes, length_leBytes, Nat.reduceAdd] using h

end Sys2Proof.Machine
end

section
/-! The result layouts of a port, of STATUS and ALERT_READ (section 12.3.1), the slot image (section 12.4), response
frames and data out (R167, R182). -/

namespace Sys2Proof.Machine

open Sys2Proof.Safety

/-- Two fields that are 0, one behind the other. -/
theorem holdsAt_zero_append {l : List Byte} {o m n : Nat} (hm : holdsAt l o m 0) (hn : holdsAt l (o + m) n 0) :
    holdsAt l o (m + n) 0 := by
  rw [← bytesAt_leBytes, ← leBytes_zero_append, bytesAt_append, bytesAt_leBytes, bytesAt_leBytes, length_leBytes]
  exact ⟨hm, hn⟩

/-! ## PORT_STATUS (R170) -/

@[simp] theorem length_refusalBytes (r : Option RefusalRecord) : (refusalBytes r).length = 9 := by
  cases r <;> rfl

@[simp] theorem length_inFlightBytes (f : Option InFlight) : (inFlightBytes f).length = 8 := by
  cases f <;> rfl

theorem refusalBytes_fields {v : List Byte} {o : Nat} {x : RefusalRecord} (h : bytesAt v o (refusalBytes (some x))) :
    holdsAt v o 1 1 ∧ holdsAt v (o + 1) 1 x.kind.code ∧ holdsAt v (o + 2) 5 x.address.toNat ∧
      holdsAt v (o + 7) 1 x.reason.code ∧ holdsAt v (o + 8) 1 (boolCode x.more) := by
  simpa only [refusalBytes, List.append_assoc, bytesAt_append, bytesAt_leBytes, length_leBytes, Nat.add_assoc,
    Nat.reduceAdd] using h

theorem inFlightBytes_fields {v : List Byte} {o : Nat} {x : InFlight} (h : bytesAt v o (inFlightBytes (some x))) :
    holdsAt v o 1 1 ∧ holdsAt v (o + 1) 2 x.sequence.toNat ∧ holdsAt v (o + 3) 1 x.event.code ∧
      holdsAt v (o + 4) 1 x.handle.index.val ∧ holdsAt v (o + 5) 2 x.handle.generation.toNat ∧
      holdsAt v (o + 7) 1 x.redeliveries := by
  simpa only [inFlightBytes, Handle.bytes_eq, List.append_assoc, bytesAt_append, bytesAt_leBytes, length_leBytes,
    Nat.add_assoc, Nat.reduceAdd] using h

theorem State.length_portView (s : State) (p : Port) : (s.portView p).length = 48 := by
  unfold State.portView
  simp only [List.length_append, length_leBytes, length_presence, length_refusalBytes, length_inFlightBytes]

/-- The fields of PORT_STATUS. -/
theorem State.portView_fields {s : State} {p : Port} {r : PortRecord} {v : List Byte} (hr : r = s.port p)
    (hv : v = s.portView p) :
    holdsAt v 0 1 r.state.code ∧ holdsAt v 1 1 (boolCode r.linkFlag) ∧ holdsAt v 2 1 r.epoch.toNat ∧
      bytesAt v 3 (presence 4 (r.helloPending.map BitVec.toNat)) ∧
      holdsAt v 8 1 ((r.fenceCause.map FenceCause.code).getD 0) ∧ holdsAt v 9 4 r.hostId.toNat ∧
      bytesAt v 13 (refusalBytes r.refusal) ∧ holdsAt v 22 1 (s.leasesHeld p) ∧ holdsAt v 23 3 (s.granulesHeld p) ∧
      holdsAt v 26 1 r.commandQueue.length ∧ holdsAt v 27 1 r.accessQueue.length ∧
      holdsAt v 28 2 r.outbound.length ∧ holdsAt v 30 1 r.commandTags.toNat ∧ holdsAt v 31 4 r.readTags.toNat ∧
      holdsAt v 35 1 (s.slotsOf p).length ∧
      holdsAt v 36 1 ((s.slotsOf p).filter (fun x => x.orphaned)).length ∧ holdsAt v 37 1 r.unit.entries.length ∧
      bytesAt v 38 (inFlightBytes r.unit.inFlight) ∧ holdsAt v 46 2 r.unit.sequence.toNat := by
  subst hr
  have h := bytesAt_of_eq hv
  unfold State.portView at h
  simpa only [List.append_assoc, bytesAt_append, bytesAt_leBytes, length_leBytes, length_presence,
    length_refusalBytes, length_inFlightBytes, Nat.reduceAdd] using h

theorem State.slotsOf_eq_filterMap (s : State) (p : Port) :
    s.slotsOf p = s.hostSlots.toList.filterMap (fun y => y.filter (fun x => decide (x.port = p))) :=
  List.filter_filterMap

/-! ## STATUS (R169) -/

/-- The code of an outcome. -/
def EntryOutcome.code : EntryOutcome → Nat
  | .unused => 0
  | .accepted _ => 1
  | .zeroCount => 2
  | .beyondPool => 3
  | .noHolder => 4
  | .sharedWriter => 5
  | .overlap => 6

/-- The record index of an accepted entry, 0 of any other. -/
def EntryOutcome.record : EntryOutcome → Nat
  | .accepted i => i.val
  | .unused | .zeroCount | .beyondPool | .noHolder | .sharedWriter | .overlap => 0

theorem EntryOutcome.bytes_eq (x : EntryOutcome) : x.bytes = leBytes 1 x.code ++ leBytes 1 x.record := by
  cases x <;> rfl

theorem EntryOutcome.length_bytes (x : EntryOutcome) : x.bytes.length = 2 := by
  rw [EntryOutcome.bytes_eq]
  rfl

theorem getElem?_toList {α : Type} {n : Nat} (x : Vector α n) (i : Fin n) : x.toList[i.val]? = some x[i] := by
  simp

theorem length_outcomes (x : Vector EntryOutcome 16) : (x.toList.flatMap EntryOutcome.bytes).length = 32 := by
  rw [length_flatMap_of_size fun y _ => y.length_bytes, Vector.length_toList]

@[simp] theorem BootCell.length_bytes (c : BootCell) : c.bytes.length = 2 := rfl

@[simp] theorem length_nvBytes (o : Option NvOperation) : (nvBytes o).length = 2 := by
  rcases o with _ | ⟨_, _⟩ | _ <;> rfl

theorem State.length_statusView (s : State) : s.statusView.length = 54 := by
  unfold State.statusView
  simp only [List.length_append, length_leBytes, length_outcomes, BootCell.length_bytes, length_nvBytes]

/-- The fields of STATUS. -/
theorem State.statusView_fields {s : State} {v : List Byte} (hv : v = s.statusView) :
    holdsAt v 0 4 s.clock.toNat ∧ holdsAt v 4 3 s.geometry.poolGranules ∧
      holdsAt v 7 1 (boolCode s.geometry.initScrub) ∧ holdsAt v 8 1 s.report.source.code ∧
      holdsAt v 9 1 (fallbackCode s.report.fallback) ∧
      bytesAt v 10 (s.report.outcomes.toList.flatMap EntryOutcome.bytes) ∧ holdsAt v 42 1 s.slotValidity ∧
      bytesAt v 43 s.bootCell.bytes ∧ bytesAt v 45 (nvBytes s.nvOperation) ∧
      holdsAt v 47 2 (s.leases.toList.filter LeaseRecord.live).length ∧ holdsAt v 49 1 s.waitQueue.length ∧
      holdsAt v 50 2 s.scrubQueue.length ∧ holdsAt v 52 2 s.held.length := by
  have h := bytesAt_of_eq hv
  unfold State.statusView at h
  simpa only [List.append_assoc, bytesAt_append, bytesAt_leBytes, length_leBytes, length_outcomes,
    BootCell.length_bytes, length_nvBytes, Nat.reduceAdd] using h

/-- The fields of the outcome of each entry. -/
theorem outcome_fields {v : List Byte} {o : Nat} {x : Vector EntryOutcome 16}
    (h : bytesAt v o (x.toList.flatMap EntryOutcome.bytes)) (n : EntryNumber) :
    holdsAt v (o + 2 * n.val) 1 x[n].code ∧ holdsAt v (o + 2 * n.val + 1) 1 x[n].record := by
  have hn := bytesAt_flatMap (fun y _ => y.length_bytes) h (getElem?_toList x n)
  rw [EntryOutcome.bytes_eq] at hn
  exact bytesAt_pair hn

/-- Four flags as the low bits of a byte. -/
theorem flags_byte (a b c d : Bool) (x : Byte)
    (hx : x = BitVec.ofNat 8 ((if a then 1 else 0) + ((if b then 2 else 0) + ((if c then 4 else 0) +
      ((if d then 8 else 0) + 0))))) :
    x.getLsbD 0 = a ∧ x.getLsbD 1 = b ∧ x.getLsbD 2 = c ∧ x.getLsbD 3 = d ∧ x.toNat < 16 := by
  subst hx
  revert a b c d
  decide

/-- The validity of slot n stands at bit n. -/
theorem State.slotValidity_byte (s : State) :
    (∀ n : Fin 4, (BitVec.ofNat 8 s.slotValidity).getLsbD n.val = (s.validImage n).isSome) ∧
      (BitVec.ofNat 8 s.slotValidity).toNat < 16 := by
  obtain ⟨h0, h1, h2, h3, hlt⟩ := flags_byte (s.validImage 0).isSome (s.validImage 1).isSome
    (s.validImage 2).isSome (s.validImage 3).isSome (BitVec.ofNat 8 s.slotValidity) rfl
  exact ⟨fun n => by fin_cases n <;> assumption, hlt⟩

/-! ## ALERT_READ (R177) -/

/-- The fields of ALERT_READ. -/
theorem State.alertView_fields {s : State} {v : List Byte} (hv : v = s.alertView) :
    holdsAt v 0 2 s.alertCauses.toNat ∧ holdsAt v 2 2 s.alertMaskBits.toNat ∧
      holdsAt v 4 1 (boolCode s.alertAsserted) := by
  have h := bytesAt_of_eq hv
  simpa only [State.alertView, List.append_assoc, bytesAt_append, bytesAt_leBytes, length_leBytes, Nat.reduceAdd] using h

theorem State.boolCode_alertAsserted (s : State) :
    boolCode s.alertAsserted = if s.alertCauses &&& s.alertMaskBits = 0 then 0 else 1 := by
  unfold State.alertAsserted boolCode
  by_cases h : s.alertCauses &&& s.alertMaskBits = 0 <;> simp [h]

/-! ## The slot image (section 12.4) -/

theorem PortPolicy.length_bytes (q : PortPolicy) : q.bytes.length = 12 := by
  simp only [PortPolicy.bytes, List.length_append, length_leBytes]

/-- The fields of a port block. -/
theorem PortPolicy.bytes_fields {v : List Byte} {o : Nat} {q : PortPolicy} (h : bytesAt v o q.bytes) :
    holdsAt v o 2 q.reachBase ∧ holdsAt v (o + 2) 2 q.reachLimit ∧ holdsAt v (o + 4) 3 q.granuleQuota ∧
      holdsAt v (o + 7) 1 q.leaseQuota ∧ holdsAt v (o + 8) 2 q.maxTerm ∧
      holdsAt v (o + 10) 1 (boolCode q.indefiniteOk) ∧ holdsAt v (o + 11) 1 q.ackTimeout := by
  simpa only [PortPolicy.bytes, List.append_assoc, bytesAt_append, bytesAt_leBytes, length_leBytes, Nat.add_assoc,
    Nat.reduceAdd] using h

theorem length_rights (x : Vector EntryRight 4) : (x.toList.flatMap (fun r => leBytes 1 r.code)).length = 4 := by
  rw [length_flatMap_of_size fun _ _ => length_leBytes 1 _, Vector.length_toList]

theorem StandingEntry.length_bytes (e : StandingEntry) : e.bytes.length = 12 := by
  simp only [StandingEntry.bytes, List.length_append, length_leBytes, length_rights]

/-- The fields of an entry block. -/
theorem StandingEntry.bytes_fields {v : List Byte} {o : Nat} {e : StandingEntry} (h : bytesAt v o e.bytes) :
    holdsAt v o 1 (boolCode e.used) ∧ holdsAt v (o + 1) 2 e.base ∧ holdsAt v (o + 3) 3 e.count ∧
      holdsAt v (o + 6) 1 e.kind.code ∧ (∀ p : Port, holdsAt v (o + 7 + p.val) 1 e.rights[p].code) ∧
      holdsAt v (o + 11) 1 (boolCode e.scrub) := by
  simp only [StandingEntry.bytes, List.append_assoc, bytesAt_append, bytesAt_leBytes, length_leBytes, length_rights,
    Nat.add_assoc, Nat.reduceAdd] at h
  obtain ⟨hused, hbase, hcount, hkind, hrights, hscrub⟩ := h
  refine ⟨hused, hbase, hcount, hkind, fun p => ?_, hscrub⟩
  have hp := bytesAt_flatMap (fun _ _ => length_leBytes 1 _) hrights (getElem?_toList e.rights p)
  rwa [bytesAt_leBytes, Nat.one_mul] at hp

theorem length_portBlocks (x : Vector PortPolicy 4) : (x.toList.flatMap PortPolicy.bytes).length = 48 := by
  rw [length_flatMap_of_size fun y _ => y.length_bytes, Vector.length_toList]

theorem length_entryBlocks (x : Vector StandingEntry 16) : (x.toList.flatMap StandingEntry.bytes).length = 192 := by
  rw [length_flatMap_of_size fun y _ => y.length_bytes, Vector.length_toList]

theorem Profile.length_bytes (f : Profile) : f.bytes.length = 245 := by
  simp only [Profile.bytes, List.length_append, length_leBytes, length_portBlocks, length_entryBlocks]

/-- The fields of a slot image, and the place of each block. -/
theorem Profile.bytes_fields {f : Profile} {v : List Byte} (hv : v = f.bytes) :
    holdsAt v 0 3 f.poolGranules ∧ holdsAt v 3 1 (boolCode f.initScrub) ∧ holdsAt v 4 1 (boolCode f.scrubOnRetire) ∧
      (∀ p : Port, bytesAt v (5 + 12 * p.val) f.ports[p].bytes) ∧
      ∀ n : EntryNumber, bytesAt v (53 + 12 * n.val) f.standing[n].bytes := by
  have h := bytesAt_of_eq hv
  simp only [Profile.bytes, List.append_assoc, bytesAt_append, bytesAt_leBytes, length_leBytes, length_portBlocks,
    Nat.reduceAdd] at h
  obtain ⟨hgranules, hinit, hretire, hports, hentries⟩ := h
  exact ⟨hgranules, hinit, hretire,
    fun p => bytesAt_flatMap (fun y _ => y.length_bytes) hports (getElem?_toList f.ports p),
    fun n => bytesAt_flatMap (fun y _ => y.length_bytes) hentries (getElem?_toList f.standing n)⟩

/-! ## Response frames and data out (R167, R182) -/

theorem State.readTransfer_response {s : State} {r : ServiceResponse} (h : s.response = some r) :
    s.readTransfer = (if s.phase = .ready then 2 else 0) :: r.frame := by
  unfold State.readTransfer State.readyByte
  rw [h]
  by_cases hr : s.phase = .ready <;> simp [hr]

theorem State.readTransfer_none {s : State} (h : s.response = none) :
    s.readTransfer = (if s.phase = .ready then 1 else 0) :: sealed [0, 0, 0, 0] := by
  unfold State.readTransfer State.readyByte
  rw [h]
  by_cases hr : s.phase = .ready <;> simp [hr]

theorem State.dataOut_request {s : State} {t : List Byte} (h : t.head? ≠ some 0) :
    s.dataOut t = List.replicate t.length 0xFF := if_pos (decide_eq_true h)

theorem State.dataOut_read (s : State) (t : List Byte) :
    s.dataOut (0 :: t) = 0xFF :: s.readTransfer.take t.length := if_neg (by simp [isRequestTransfer])

end Sys2Proof.Machine
end

section
/-! The statement on the layouts, put together from the fields of each. -/

namespace Sys2Proof.Machine

open Sys2Proof.Safety

/-- Settles O6: each layout by its `_fields` lemma, LEASE_NEXT by the order of the extent index. -/
theorem layoutSizes : Obligations.LayoutSizes := by
  refine ⟨fun f v hv => ?_, rfl, fun s i r v hr hv => ?_, fun s g => ?_, fun s v hv => ?_, fun s v hv => ?_,
    fun s p r v hr hv => ?_, fun s v hv => ?_, fun s v hv => ?_, fun s r code b hr hcode hb => ?_, fun s hr => ?_,
    fun s t => ⟨State.dataOut_request, fun _ => s.dataOut_read t⟩⟩
  · obtain ⟨hgranules, hinit, hretire, hports, hentries⟩ := Profile.bytes_fields hv
    refine ⟨hv ▸ f.length_bytes, hgranules, hinit, hretire, ?_, ?_⟩
    · rintro p q rfl
      have h := PortPolicy.bytes_fields (hports p)
      simp only [Nat.add_right_comm _ (12 * p.val), Nat.reduceAdd] at h
      exact h
    · rintro n e rfl
      have h := StandingEntry.bytes_fields (hentries n)
      simp only [Nat.add_right_comm _ (12 * n.val), Nat.reduceAdd] at h ⊢
      exact h
  · obtain ⟨hindex, hgeneration, hstate, hkind, hstanding, hwritten, hbase, hcount, hlength, hholders, hcreator, hcause,
      hdeadline, hrevoke, hdrain, hdamage, hheld, hclock⟩ := State.recordView_fields hr hv
    rw [causeCode_eq] at hcause hrevoke
    refine ⟨hv ▸ s.length_recordView i, hindex, hgeneration, hstate, hkind, ?_, hwritten, hbase, hcount, hlength,
      fun k x hk hx => ?_, fun k hk hl => holderPlaces_empty hholders hk hl, ?_, fun hn => ?_, fun n hn => ?_,
      hrevoke, hdrain, fun hn => ?_, fun a ha => ?_, hheld, hclock⟩
    · rcases hs : r.standing with _ | n <;> rw [hs] at hstanding <;> exact hstanding
    · have h := Holder.bytes_fields (holderPlaces_holder hholders hk hx)
      simp only [Nat.add_right_comm _ (9 * k), Nat.reduceAdd] at h
      exact h
    · rcases hc : r.creator with _ | q <;> rw [hc] at hcreator <;> exact hcreator
    · rw [hn] at hcause
      exact hcause
    · rw [hn] at hcause hdeadline
      exact ⟨hcause, hdeadline⟩
    · rw [hn] at hdamage
      exact bytesAt_presence_none hdamage
    · rw [ha] at hdamage
      exact bytesAt_presence_some hdamage
  · cases hnext : s.leaseAtOrAbove g with
    | none => exact .inl ⟨State.nextView_of_none hnext, State.leaseAtOrAbove_none hnext⟩
    | some i =>
      obtain ⟨hlive, hg, hfirst⟩ := State.leaseAtOrAbove_some hnext
      exact .inr ⟨i, s.sameBase i, hlive, hg, hfirst, rfl, State.nextView_of_some hnext⟩
  · obtain ⟨hclock, hlength, hentries⟩ := State.waitView_fields hv
    refine ⟨hv ▸ s.length_waitView, hclock, hlength, fun k e he => ?_⟩
    have h := WaitEntry.bytes_fields (hentries k e he)
    simp only [Nat.add_right_comm _ (14 * k), Nat.reduceAdd] at h
    exact h
  · obtain ⟨hlength, hsome, hbase, hcount, hslot, hgranule, hheld⟩ := State.scrubView_fields hv
    refine ⟨hv ▸ s.length_scrubView, hlength, fun hq => ?_, fun e rest hq => ?_, fun hs => ?_, fun g hs => ?_, hheld⟩
    · rw [hq] at hsome hbase hcount
      exact holdsAt_zero_append hsome (holdsAt_zero_append (m := 2) hbase hcount)
    · rw [hq] at hsome hbase hcount
      exact ⟨hsome, hbase, hcount⟩
    · rw [hs] at hslot
      exact hslot
    · rw [hs] at hslot hgranule
      exact ⟨hslot, hgranule⟩
  · obtain ⟨hstate, hflag, hepoch, hhello, hcause, hhost, hrefusal, hleases, hgranules, hcommands, haccesses, houtbound,
      htags, hreadTags, hslots, horphans, hentries, hflight, hsequence⟩ := State.portView_fields hr hv
    refine ⟨hv ▸ s.length_portView p, hstate, hflag, hepoch, fun hn => ?_, fun host hn => ?_, ?_, hhost, fun hn => ?_,
      fun x hx => ?_, ?_, hcommands, haccesses, houtbound, htags, hreadTags, ?_, hentries, fun hn => ?_, fun x hx => ?_,
      hsequence⟩
    · rw [hn] at hhello
      exact bytesAt_presence_none hhello
    · rw [hn] at hhello
      exact bytesAt_presence_some hhello
    · rcases hc : r.fenceCause with _ | _ | _ | _ | _ | _ <;> rw [hc] at hcause <;> exact hcause
    · rw [hn] at hrefusal
      exact bytesAt_leBytes.1 hrefusal
    · rw [hx] at hrefusal
      exact refusalBytes_fields hrefusal
    · rintro l rfl
      exact ⟨hleases, hgranules⟩
    · rintro l rfl
      rw [← State.slotsOf_eq_filterMap]
      exact ⟨hslots, horphans⟩
    · rw [hn] at hflight
      exact bytesAt_leBytes.1 hflight
    · rw [hx] at hflight
      exact inFlightBytes_fields hflight
  · obtain ⟨hclock, hgranules, hinit, hsource, hfallback, houtcomes, hvalidity, hboot, hnv, hlive, hwait, hscrub,
      hheld⟩ := State.statusView_fields hv
    obtain ⟨hbits, hbyte⟩ := s.slotValidity_byte
    refine ⟨hv ▸ s.length_statusView, hclock, hgranules, hinit, hsource, hfallback, fun n => ?_,
      ⟨_, (hvalidity 0 Nat.one_pos).trans (by rw [Nat.pow_zero, Nat.div_one]), hbits, hbyte⟩, fun hn => ?_, fun n hn => ?_,
      fun hn => ?_, fun k f hn => ?_, fun n hn => ?_, hlive, hwait, hscrub, hheld⟩
    · have h := outcome_fields houtcomes n
      simp only [Nat.add_right_comm _ (2 * n.val), Nat.reduceAdd] at h
      exact h
    · rw [BootCell.bytes, hn] at hboot
      exact bytesAt_presence_none (n := 1) hboot
    · rw [BootCell.bytes, hn] at hboot
      exact bytesAt_presence_some hboot
    · rw [hn] at hnv
      exact bytesAt_leBytes.1 hnv
    · rw [hn] at hnv
      exact bytesAt_pair (x := 1) hnv
    · rw [hn] at hnv
      exact bytesAt_pair (x := 2) hnv
  · obtain ⟨hcauses, hmask, hasserted⟩ := State.alertView_fields hv
    rw [State.boolCode_alertAsserted] at hasserted
    exact ⟨hv ▸ rfl, hcauses, hmask, hasserted⟩
  · rw [State.readTransfer_response hr, hb, hcode]
    cases r with
    | mk c result fields => cases result <;> rfl
  · rw [State.readTransfer_none hr]
    refine ⟨rfl, fun hready => ?_⟩
    rw [if_pos hready]
    rfl

end Sys2Proof.Machine
end

section
/-! A notification event that reaches the holders of a lease one after the other (R77, R79, R119), and retirement steps
in the middle of an event (R84, R86 to R88): each operation of the model in the words of the statements. -/

namespace Sys2Proof.Machine

open Sys2Proof.Safety

/-! ## Notifications leave the lease table alone -/

theorem Work.onState_ite (c : Prop) [Decidable c] (a b : Work) (f : State → State) :
    (if c then a else b).onState f = if c then a.onState f else b.onState f :=
  apply_ite (fun w : Work => w.onState f) c a b

theorem Work.overflow_setLease (w : Work) (i : RecordIndex) (r : LeaseRecord) (p : Port) :
    (w.onState (fun s => s.setLease i r)).overflow p = (w.overflow p).onState (fun s => s.setLease i r) := by
  unfold Work.overflow
  rw [Work.onState_ite]
  rfl

theorem Work.send_setLease (w : Work) (i : RecordIndex) (r : LeaseRecord) (p : Port) (k : OutPacket) :
    (w.onState (fun s => s.setLease i r)).send p k = (w.send p k).onState (fun s => s.setLease i r) := by
  unfold Work.send
  rw [Work.overflow_setLease, Work.onState_ite, Work.onState_ite]
  rfl

theorem Work.deliver_setLease (w : Work) (i : RecordIndex) (r : LeaseRecord) (p : Port) :
    (w.onState (fun s => s.setLease i r)).deliver p = (w.deliver p).onState (fun s => s.setLease i r) := by
  unfold Work.deliver
  simp only [Work.onState_st, State.port_setLease]
  cases (w.st.port p).unit.entries with
  | nil => rfl
  | cons x rest => exact Work.send_setLease (w.onState (fun s => s.setPort p _)) i r p _

/-- A record of the lease table may be replaced before an event is raised or after it. -/
theorem Work.raise_setLease (w : Work) (i : RecordIndex) (r : LeaseRecord) (p : Port) (h : Handle) (e : NoticeEvent) :
    (w.onState (fun s => s.setLease i r)).raise p h e = (w.raise p h e).onState (fun s => s.setLease i r) := by
  unfold Work.raise
  dsimp only
  rw [Work.overflow_setLease, Work.onState_ite, Work.onState_ite, Work.onState_ite, Work.onState_ite,
    ← Work.deliver_setLease]
  rfl

/-- An event reaches the unit of its own port alone. -/
theorem Work.raise_port_of_ne (w : Work) {p q : Port} (hq : q ≠ p) (h : Handle) (e : NoticeEvent) :
    (w.raise p h e).st.port q = w.st.port q := by
  have hset : ∀ (x : Work) (r : PortRecord), (x.onState (fun s => s.setPort p r)).st.port q = x.st.port q :=
    fun x r => (State.port_setPort x.st p q r).trans (if_neg (Ne.symm hq))
  have hsend : ∀ (x : Work) (k : OutPacket), (x.send p k).st.port q = x.st.port q := fun x k => by
    rcases x.send_st_cases p k with hs | ⟨-, hs⟩ <;> rw [hs]
    exact hset x _
  rcases w.raise_cases p h e with hr | ⟨-, hr⟩ | ⟨-, -, w', rfl, hr | hr⟩ | ⟨-, hr⟩ <;> rw [hr]
  · exact hset w _
  · exact hset w _
  · rcases Work.deliver_cases (w.onState (fun s => s.setPort p _)) p with ⟨-, hd⟩ | ⟨x, rest, -, hd⟩ <;> rw [hd]
    · exact hset w _
    · rw [hsend, hset, hset]
  · rw [Work.overflow_st]

/-! ## Raised port by port -/

theorem raisedInOrder_talks (h : Handle) (e : NoticeEvent) :
    ∀ (l : List Port) (w : Work), w.Talks (raisedInOrder h e l w)
  | [], w => .refl w
  | p :: rest, w => (w.raise_talks p h e).trans (raisedInOrder_talks h e rest _)

theorem raisedInOrder_port_of_notMem (h : Handle) (e : NoticeEvent) {q : Port} :
    ∀ (l : List Port) (w : Work), q ∉ l → (raisedInOrder h e l w).st.port q = w.st.port q
  | [], _, _ => rfl
  | p :: rest, w, hq => by
    rw [List.mem_cons, not_or] at hq
    exact (raisedInOrder_port_of_notMem h e rest _ hq.2).trans (w.raise_port_of_ne hq.1 h e)

/-- The handle that each holder is told is that of the lease when the event began (R77, R79, R119). -/
theorem Work.raiseHolders_eq (w : Work) (i : RecordIndex) (e : NoticeEvent) :
    w.raiseHolders i e = raisedInOrder (w.st.handleOf i) e ((w.st.lease i).holders.map (fun h => h.port)) w := by
  have key : ∀ (l : List Holder) (x : Work), x.st.lease i = w.st.lease i →
      l.foldl (fun x h => x.raise h.port (x.st.handleOf i) e) x =
        raisedInOrder (w.st.handleOf i) e (l.map (fun h => h.port)) x := by
    intro l
    induction l with
    | nil => exact fun _ _ => rfl
    | cons h rest ih =>
      intro x hx
      have hhandle : x.st.handleOf i = w.st.handleOf i := by rw [State.handleOf, hx]; rfl
      rw [List.foldl_cons, hhandle]
      exact ih _ (((x.raise_talks h.port _ e).st.lease i).trans hx)
  exact key _ w rfl

/-- Holders taken away and told one after the other are told first and taken away then, as far as the entry to DRAINING
is concerned, which drops the holder list (R78, R82). -/
theorem Work.revokeAll_eq (w : Work) (i : RecordIndex) :
    w.revokeAll i = (raisedInOrder (w.st.handleOf i) (.revoked .forced)
      ((w.st.lease i).holders.map (fun h => h.port)) w).drain i .forced := by
  have key : ∀ (l held : List Holder) (x : Work), x.st.lease i = w.st.lease i →
      (l.foldl (fun x h => (x.onState (fun s => s.setLease i ((s.lease i).withoutHolder h.port))).raise h.port
        (x.st.handleOf i) (.revoked .forced))
          (x.onState (fun s => s.setLease i { s.lease i with holders := held }))).drain i .forced =
        (raisedInOrder (w.st.handleOf i) (.revoked .forced) (l.map (fun h => h.port)) x).drain i .forced := by
    intro l
    induction l with
    | nil => exact fun held x _ => x.drain_setHolders i held .forced
    | cons h rest ih =>
      intro held x hx
      have hset : (x.onState (fun s => s.setLease i { s.lease i with holders := held })).onState
          (fun s => s.setLease i ((s.lease i).withoutHolder h.port)) =
            x.onState (fun s => s.setLease i
              { x.st.lease i with holders := held.filter (fun y => decide (y.port ≠ h.port)) }) := by
        simp [Work.onState, State.setLease_setLease, LeaseRecord.withoutHolder]
      have hhandle : (x.onState (fun s => s.setLease i { s.lease i with holders := held })).st.handleOf i =
          w.st.handleOf i := by
        simp [State.handleOf, hx]
      have hlease := (x.raise_talks h.port (w.st.handleOf i) (.revoked .forced)).st.lease i
      rw [List.foldl_cons, hset, hhandle, Work.raise_setLease, ← hlease]
      exact ih _ _ (hlease.trans hx)
  have hsame : w.onState (fun s => s.setLease i { s.lease i with holders := (w.st.lease i).holders }) = w :=
    congrArg (fun st => { w with st := st }) (State.setLease_lease w.st i)
  have h := key (w.st.lease i).holders (w.st.lease i).holders w rfl
  rw [hsame] at h
  exact h

/-! ## Retirement steps in the middle of an event -/

/-- A retirement step looks at the state alone and adds its scan to what is due. -/
theorem Work.retire_eq (w : Work) (i : RecordIndex) : w.retire i = afterRetirement w i := by
  unfold afterRetirement
  rw [← Work.retire_start]
  unfold Work.retire
  by_cases hn : w.st.needsScrub (w.st.lease i) = true
  · by_cases hl : w.st.scrubQueue.length < 512
    · simp only [Work.start_st, hn, hl, if_true]
      exact congrArg (Work.mk _ _ _) (Bool.or_true _).symm
    · simp only [Work.start_st, hn, hl, if_true, if_false]
      exact congrArg (Work.mk _ _ _) (Bool.or_false _).symm
  · simp only [Work.start_st, hn, Bool.false_eq_true, if_false]
    exact congrArg (Work.mk _ _ _) (Bool.or_true _).symm

theorem retirement_due (s : State) (i : RecordIndex) :
    (retirement s i).overflowed = [] ∧ (retirement s i).ending = [] := by
  rw [← Work.retire_start]
  exact ⟨(Work.retire_onTable _ i).overflowed, (Work.retire_onTable _ i).ending⟩

/-- With nothing due it is the one of the statements. -/
theorem afterRetirement_start (s : State) (i : RecordIndex) : afterRetirement (.start s) i = retirement s i := by
  rw [← Work.retire_eq, Work.retire_start]

/-- The entry to DRAINING waits for the accesses in flight, or makes the retirement step (R84). -/
theorem Work.drain_eq (w : Work) (i : RecordIndex) (c : RevokeCause) :
    w.drain i c =
      if (w.st.lease i).drainCount = 0 then
        afterRetirement { w with st := w.st.setLease i (drainingRecord (w.st.lease i) c) } i
      else { w with st := w.st.setLease i (drainingRecord (w.st.lease i) c) } := by
  obtain ⟨w', rfl, ⟨h, hcount⟩ | ⟨h, hcount⟩⟩ := w.drain_cases i c <;> rw [h]
  · exact (if_neg hcount).symm
  · rw [Work.retire_eq]
    exact (if_pos hcount).symm

theorem Work.drain_onTable (w : Work) (i : RecordIndex) (c : RevokeCause) : w.OnTable (w.drain i c) := by
  obtain ⟨w', rfl, ⟨h, -⟩ | ⟨h, -⟩⟩ := w.drain_cases i c <;> rw [h]
  · exact ⟨rfl, rfl, rfl⟩
  · exact .trans (b := w.onState (fun s => s.setLease i ((s.lease i).toDraining c))) ⟨rfl, rfl, rfl⟩
      (Work.retire_onTable _ i)

theorem Work.drain_others (w : Work) {i j : RecordIndex} (hij : j ≠ i) (c : RevokeCause) :
    (w.drain i c).st.lease j = w.st.lease j := by
  have hset : (w.onState (fun s => s.setLease i ((s.lease i).toDraining c))).st.lease j = w.st.lease j :=
    (State.lease_setLease w.st i j _).trans (if_neg (Ne.symm hij))
  obtain ⟨w', rfl, ⟨h, -⟩ | ⟨h, -⟩⟩ := w.drain_cases i c <;> rw [h]
  · exact hset
  · exact (Work.retire_others _ hij).1.trans hset

end Sys2Proof.Machine
end

section
/-! The forced revocation of a lease: at its notice deadline (R82) and at FORCE_REVOKE (R77 to R79, R172). -/

namespace Sys2Proof.Machine

open Sys2Proof.Safety

/-! ## The notice deadline (R78, R82, R84) -/

/-- A notice deadline that is reached takes every holder. -/
theorem execNoticeDeadline_reached {s : State} {i : RecordIndex} {n : Notice} (hstate : (s.lease i).state = .notice)
    (hn : (s.lease i).notice = some n) (hreached : (s.clock - n.deadline).toNat < 2 ^ 31) :
    execNoticeDeadline i s = .next ((Work.start s).revokeAll i).settle := by
  have hr : s.reached n.deadline = true := decide_eq_true hreached
  unfold execNoticeDeadline
  rw [if_neg (not_not.2 hstate), hn]
  exact if_pos hr

/-- The entry to DRAINING of a lease whose holders have been told (R78, R84). -/
theorem Work.revokeAll_drained {w v : Work} {i : RecordIndex}
    (hv : v = raisedInOrder ⟨i, (w.st.lease i).generation⟩ (.revoked .forced)
      ((w.st.lease i).holders.map (fun h => h.port)) w) :
    w.revokeAll i =
      if (w.st.lease i).drainCount = 0 then
        afterRetirement { v with st := v.st.setLease i (drainingRecord (w.st.lease i) .forced) } i
      else { v with st := v.st.setLease i (drainingRecord (w.st.lease i) .forced) } := by
  subst hv
  rw [w.revokeAll_eq, State.handleOf, Work.drain_eq, (raisedInOrder_talks _ _ _ w).st.lease i]

/-- The loss of all holders changes no other record. -/
theorem Work.revokeAll_others (w : Work) {i j : RecordIndex} (hij : j ≠ i) :
    (w.revokeAll i).st.lease j = w.st.lease j := by
  rw [w.revokeAll_eq, Work.drain_others _ hij]
  exact (raisedInOrder_talks _ _ _ w).st.lease j

/-- Nor a port that held nothing in the lease. -/
theorem Work.revokeAll_port_of_not_holds {w : Work} {i : RecordIndex} {p : Port}
    (hp : (w.st.lease i).holds p = false) : (w.revokeAll i).st.port p = w.st.port p := by
  have hnot : p ∉ (w.st.lease i).holders.map (fun h => h.port) := by
    rw [List.mem_map, ← LeaseRecord.holds_iff, hp]
    exact Bool.false_ne_true
  rw [w.revokeAll_eq, State.port_eq_of_ports_eq (by rw [(Work.drain_onTable _ i .forced).st])]
  exact raisedInOrder_port_of_notMem _ _ _ w hnot

/-- Ports, lease table and scrub queue aside, it leaves the state as it is. -/
theorem Work.revokeAll_frame (w : Work) (i : RecordIndex) :
    (w.revokeAll i).st.waitQueue = w.st.waitQueue ∧ (w.revokeAll i).st.hostSlots = w.st.hostSlots ∧
      (w.revokeAll i).st.pool = w.st.pool ∧ (w.revokeAll i).st.clock = w.st.clock := by
  rw [w.revokeAll_eq, (Work.drain_onTable _ i .forced).st, (raisedInOrder_talks _ _ _ w).st.eq]
  exact ⟨rfl, rfl, rfl, rfl⟩

/-- Settles O29: the deadline by `execNoticeDeadline_reached`, the order of the effects by `Work.revokeAll_drained`, and
the frame by the lemmas on `Work.revokeAll`. -/
theorem noticeDeadlineOutcome : Obligations.NoticeDeadlineOutcome := by
  refine ⟨fun s i n hstate hn hreached => execNoticeDeadline_reached hstate hn hreached, fun w v i _ hv => ?_,
    fun w i _ => ⟨fun hcount => ?_, fun j hij => w.revokeAll_others hij,
      fun p hp => Work.revokeAll_port_of_not_holds hp, w.revokeAll_frame i⟩⟩
  · rw [Work.revokeAll_drained hv]
    exact ⟨fun hcount => if_neg hcount, fun hcount => if_pos hcount⟩
  · rw [Work.revokeAll_drained rfl, if_neg hcount]
    exact (State.lease_setLease ..).trans (if_pos rfl)

/-! ## FORCE_REVOKE (R77 to R79, R172) -/

/-- A request of a ready part with a grace in range. -/
theorem execForceRevoke_inRange {s : State} {h : Handle} {grace : BitVec 16} {w : Work} {r : ServiceResult}
    (hr : s.phase = .ready) (hgrace : grace.toNat ≤ 10000) (hact : forceRevoke h grace.toNat (.start s) = (w, r)) :
    execForceRevoke h grace s = .next (w.onState (fun t => t.putResponse 0x0B r [])).settle := by
  refine (service_ready hr).trans ?_
  simp only [if_neg (not_lt.2 hgrace), hact]

theorem forceRevoke_of_stale {s : State} {h : Handle} (grace : Nat) (hs : staleFails s h = true) :
    forceRevoke h grace (.start s) = (.start s, .stale) :=
  if_pos (by rw [Work.start_st, State.resolves_eq, hs]; rfl)

/-- What a FORCE_REVOKE does whose handle resolves. -/
theorem forceRevoke_of_fresh {s : State} {h : Handle} (grace : Nat) (hs : staleFails s h = false) :
    forceRevoke h grace (.start s) =
      if (s.lease h.index).state = .draining then (.start s, .notLive)
      else if grace = 0 then ((Work.start s).revokeAll h.index, .ok)
      else if ∃ n, (s.lease h.index).notice = some n ∧ (s.lease h.index).state = .notice ∧
          earlier (s.after grace) n.deadline = false then (.start s, .ok)
      else ((Work.start s).giveNotice h.index (s.after grace), .ok) := by
  unfold forceRevoke
  rw [if_neg (by rw [Work.start_st, State.resolves_eq, hs]; exact nofun)]
  refine if_congr Iff.rfl rfl (if_congr Iff.rfl rfl ?_)
  rw [Work.start_st]
  cases (s.lease h.index).notice with
  | none => exact (if_neg (by simp)).symm
  | some n => exact if_congr (by simp) rfl rfl

theorem staleFails_eq_false {s : State} {h : Handle} (hstate : (s.lease h.index).state ≠ .free)
    (hgen : (s.lease h.index).generation = h.generation) : staleFails s h = false :=
  decide_eq_false (not_or.2 ⟨hstate, not_not.2 hgen⟩)

/-- The first of two deadlines is the earlier one (R21). -/
theorem earlier_iff (b a : ClockValue) : earlier b a = true ↔ a ≠ b ∧ (a - b).toNat < 2 ^ 31 := by
  rw [earlier, atOrAfter, Bool.and_eq_true, decide_eq_true_eq, decide_eq_true_eq, and_comm]

/-- Settles O45: BAD_VALUE and the answers that change nothing are `service_reading`s, the others
`execForceRevoke_inRange` with the case of `forceRevoke_of_fresh`. -/
theorem forceRevokeOutcome : Obligations.ForceRevokeOutcome := by
  rintro s h grace r d hr rfl rfl
  have hanswered : ∀ x, grace.toNat ≤ 10000 → forceRevoke h grace.toNat (.start s) = (.start s, x) →
      execForceRevoke h grace s = .next (s.putResponse 0x0B x []) := fun x hgrace hact => by
    rw [execForceRevoke_inRange hr hgrace hact]
    exact congrArg _ (Work.settle_quiet _)
  have hzero : grace.toNat = 0 ↔ grace = 0 := by bv_omega
  refine ⟨fun hgrace => ?_, fun hgrace hstale => ?_, fun hgrace hstate hgen => ?_,
    fun hgrace hstate hgen => ?_, fun hgrace hne hgen hstate => ?_, fun n hgrace hne hgen hstate hn hlate => ?_⟩
  · show execForceRevoke h grace s = _
    exact service_reading hr (if_pos hgrace)
  · exact hanswered .stale hgrace (forceRevoke_of_stale _ (decide_eq_true hstale))
  · refine hanswered .notLive hgrace ?_
    rw [forceRevoke_of_fresh _ (staleFails_eq_false (by simp [hstate]) hgen), if_pos hstate]
  · refine execForceRevoke_inRange hr (by simp [hgrace]) ?_
    have hforce : (s.lease h.index).state ≠ .draining ∧ (s.lease h.index).state ≠ .free := by
      rcases hstate with hs | hs <;> simp [hs]
    rw [forceRevoke_of_fresh _ (staleFails_eq_false hforce.2 hgen), if_neg hforce.1, if_pos (hzero.2 hgrace)]
  · have hforce : (s.lease h.index).state ≠ .draining ∧ (s.lease h.index).state ≠ .free := by
      rcases hstate with hs | ⟨n, hs, -⟩ <;> simp [hs]
    have hnotice : ¬ ∃ n, (s.lease h.index).notice = some n ∧ (s.lease h.index).state = .notice ∧
        earlier (s.after grace.toNat) n.deadline = false := by
      rintro ⟨n, hn, hs, hearlier⟩
      rcases hstate with hactive | ⟨n', -, hn', hdeadline⟩
      · simp [hactive] at hs
      · obtain rfl := Option.some.inj (hn.symm.trans hn')
        exact absurd ((earlier_iff (s.after grace.toNat) n.deadline).2 hdeadline) (by rw [hearlier]; exact nofun)
    refine execForceRevoke_inRange hr hgrace (w := (Work.start s).giveNotice h.index (s.after grace.toNat)) ?_
    rw [forceRevoke_of_fresh _ (staleFails_eq_false hforce.2 hgen), if_neg hforce.1, if_neg (mt hzero.1 hne),
      if_neg hnotice]
  · refine hanswered .ok hgrace ?_
    have hearlier : earlier (s.after grace.toNat) n.deadline = false := by
      rw [Bool.eq_false_iff, ne_eq, earlier_iff, not_and_or, not_not, not_lt]
      exact hlate
    rw [forceRevoke_of_fresh _ (staleFails_eq_false (by simp [hstate]) hgen), if_neg (by simp [hstate]),
      if_neg (mt hzero.1 hne), if_pos ⟨n, hn, hstate, hearlier⟩]

end Sys2Proof.Machine
end

section
/-! The completions of accesses (R86, R117, R119, R122, R123): what frees the slot and drains its lease, said once for
every kind of completion. -/

namespace Sys2Proof.Machine

open Sys2Proof.Safety

/-! ## Steps 3 and 4 of a completion (R117) -/

/-- The slot is freed, its operation is no longer in flight, and the drain count of its lease falls by 1. -/
def State.slotClosed (s : State) (n : HostSlotNumber) (x : HostSlot) : State :=
  { (s.setSlot n none).setLease x.lease { s.lease x.lease with drainCount := (s.lease x.lease).drainCount - 1 } with
    operations := s.operations.filter (fun o => decide (o.slot ≠ n)) }

/-- The slot closed, with the retirement step where it is due. -/
def Work.slotDrained (w : Work) (n : HostSlotNumber) (x : HostSlot) : Work :=
  if (w.st.lease x.lease).state = .draining ∧ (w.st.lease x.lease).drainCount - 1 = 0 then
    afterRetirement { w with st := w.st.slotClosed n x } x.lease
  else { w with st := w.st.slotClosed n x }

theorem Work.drainOne_eq_slotDrained (w : Work) (n : HostSlotNumber) (x : HostSlot) :
    (w.onState (fun s => (s.setSlot n none).forget n)).drainOne x.lease = w.slotDrained n x := by
  obtain ⟨w', rfl, ⟨h, hnot⟩ | ⟨h, hdrains⟩⟩ :=
    (w.onState (fun s => (s.setSlot n none).forget n)).drainOne_cases x.lease <;> rw [h]
  · exact (if_neg hnot).symm
  · rw [Work.retire_eq]
    exact (if_pos hdrains).symm

theorem Work.slotDrained_of_not_retiring {w : Work} {n : HostSlotNumber} {x : HostSlot}
    (h : (w.st.lease x.lease).state ≠ .draining ∨ (w.st.lease x.lease).drainCount - 1 ≠ 0) :
    w.slotDrained n x = { w with st := w.st.slotClosed n x } :=
  if_neg (by rwa [not_and_or])

theorem Work.slotDrained_start_retires {s : State} {n : HostSlotNumber} {x : HostSlot}
    (hstate : (s.lease x.lease).state = .draining) (hcount : (s.lease x.lease).drainCount - 1 = 0) :
    (Work.start s).slotDrained n x = retirement (s.slotClosed n x) x.lease :=
  (if_pos ⟨hstate, hcount⟩).trans (afterRetirement_start _ _)

/-- The slot is empty then, and every other is as it was. -/
theorem Work.slot_slotDrained (w : Work) (n m : HostSlotNumber) (x : HostSlot) :
    (w.slotDrained n x).st.slot m = if n = m then none else w.st.slot m := by
  have hclosed : (w.st.slotClosed n x).slot m = if n = m then none else w.st.slot m := State.slot_setSlot w.st n m none
  unfold Work.slotDrained
  split
  · rw [← Work.retire_eq, ← hclosed, (Work.retire_onTable _ x.lease).st]
    rfl
  · exact hclosed

/-! ## Step 5 of a completion (R117, R123) -/

theorem State.noSlotOf_iff (s : State) (p : Port) (epoch : BitVec 8) :
    s.noSlotOf p epoch = true ↔ ∀ m y, s.slot m = some y → ¬ (y.port = p ∧ y.epoch = epoch) := by
  simp only [State.noSlotOf, State.slotsOf, List.all_eq_true, List.mem_filter, List.mem_filterMap, id_eq,
    decide_eq_true_eq]
  constructor
  · rintro h m y hm ⟨hp, he⟩
    exact h y ⟨⟨some y, hm ▸ List.getElem_mem _, rfl⟩, hp⟩ he
  · rintro h y ⟨⟨_, hy, rfl⟩, hp⟩ he
    obtain ⟨m, hm, hslot⟩ := List.getElem_of_mem hy
    exact h ⟨m, by simpa using hm⟩ y (by simpa [State.slot] using hslot) ⟨hp, he⟩

/-- No slot but the completed one holds its port and epoch. -/
def State.lastOfEpoch (s : State) (n : HostSlotNumber) (x : HostSlot) : Prop :=
  ∀ m y, m ≠ n → s.slot m = some y → ¬ (y.port = x.port ∧ y.epoch = x.epoch)

theorem Work.noSlotOf_slotDrained (w : Work) (n : HostSlotNumber) (x : HostSlot) :
    (w.slotDrained n x).st.noSlotOf x.port x.epoch = true ↔ w.st.lastOfEpoch n x := by
  rw [State.noSlotOf_iff]
  refine forall_congr' fun m => forall_congr' fun y => ?_
  rw [w.slot_slotDrained n m x]
  by_cases hm : n = m
  · simp [hm]
  · simp [hm, Ne.symm hm]

theorem Work.completeSlot_of_others {w : Work} {n : HostSlotNumber} {x : HostSlot}
    (h : x.orphaned = false ∨ ∃ m y, m ≠ n ∧ w.st.slot m = some y ∧ y.port = x.port ∧ y.epoch = x.epoch) :
    w.completeSlot n x = w.slotDrained n x := by
  unfold Work.completeSlot
  rw [w.drainOne_eq_slotDrained]
  refine if_neg fun hlast => ?_
  rw [Bool.and_eq_true, w.noSlotOf_slotDrained] at hlast
  rcases h with ho | ⟨m, y, hm, hslot, hy⟩
  · exact Bool.false_ne_true (ho.symm.trans hlast.1)
  · exact hlast.2 m y hm hslot hy

theorem Work.completeSlot_of_last {w : Work} {n : HostSlotNumber} {x : HostSlot} (ho : x.orphaned = true)
    (hlast : w.st.lastOfEpoch n x) : w.completeSlot n x = (w.slotDrained n x).endFence x.port := by
  unfold Work.completeSlot
  rw [w.drainOne_eq_slotDrained]
  exact if_pos (by rw [Bool.and_eq_true, w.noSlotOf_slotDrained]; exact ⟨ho, hlast⟩)

theorem Work.endFence_eq (w : Work) (p : Port) :
    w.endFence p = { w with ending := if p ∈ w.ending then w.ending else w.ending ++ [p] } := by
  unfold Work.endFence
  split <;> rfl

theorem Work.endFence_of_none {w : Work} (h : w.ending = []) (p : Port) : w.endFence p = { w with ending := [p] } := by
  rw [w.endFence_eq, h]
  rfl

/-- A completion with nothing else due, whose port is not to end its fence, is over with the slot closed or settles with
the retirement step of its lease. -/
theorem Work.settle_completeSlot {s : State} {n : HostSlotNumber} {x : HostSlot}
    (h : x.orphaned = false ∨ ∃ m y, m ≠ n ∧ s.slot m = some y ∧ y.port = x.port ∧ y.epoch = x.epoch) :
    ((s.lease x.lease).state ≠ .draining ∨ (s.lease x.lease).drainCount - 1 ≠ 0 →
      ((Work.start s).completeSlot n x).settle = s.slotClosed n x) ∧
    ((s.lease x.lease).state = .draining → (s.lease x.lease).drainCount - 1 = 0 →
      ((Work.start s).completeSlot n x).settle = (retirement (s.slotClosed n x) x.lease).settle) := by
  rw [Work.completeSlot_of_others (w := .start s) h]
  refine ⟨fun hrest => ?_, fun hstate hcount => ?_⟩
  · rw [Work.slotDrained_of_not_retiring (w := .start s) hrest]
    exact Work.settle_quiet _
  · rw [Work.slotDrained_start_retires hstate hcount]

/-! ## What the memory controller leaves alone (R118) -/

theorem State.port_carriedOut (s : State) (n : HostSlotNumber) (p : Port) : (s.carriedOut n).port p = s.port p := by
  rw [(s.carriedOut_poolOnly n).eq]
  rfl

theorem State.lease_carriedOut (s : State) (n : HostSlotNumber) (i : RecordIndex) :
    (s.carriedOut n).lease i = s.lease i := by
  rw [(s.carriedOut_poolOnly n).eq]
  rfl

theorem State.slot_carriedOut (s : State) (n m : HostSlotNumber) : (s.carriedOut n).slot m = s.slot m := by
  rw [(s.carriedOut_poolOnly n).eq]
  rfl

/-! ## Step 2 of a completion, and the rows (R117) -/

/-- The answer to a READ and its tag freed are one change of its port's record, where the answer finds room. -/
theorem Work.answerRead_of_room {s : State} {x : HostSlot} (tag : ReadTag) (status : ReadStatus) (data : List Byte)
    (ho : x.orphaned = false) (h : Room s x.port 1) :
    (Work.start s).answerRead x tag status data = .start (s.setPort x.port
      { s.port x.port with
        readTags := (s.port x.port).readTags &&& ~~~(BitVec.twoPow 32 tag.val)
        outbound := (s.port x.port).outbound ++ [.readDone tag status data] }) := by
  have hport : (s.freeReadTag x.port tag).port x.port =
      { s.port x.port with readTags := (s.port x.port).readTags &&& ~~~(BitVec.twoPow 32 tag.val) } :=
    (State.port_freeReadTag ..).trans (if_pos rfl)
  have hlen : ((s.freeReadTag x.port tag).port x.port).outbound.length < 128 := by rw [hport]; exact h
  unfold Work.answerRead
  rw [if_neg (by rw [ho]; exact Bool.false_ne_true)]
  refine (Work.send_of_room (.start (s.freeReadTag x.port tag)) x.port _ hlen).trans ?_
  rw [Work.start_st, hport]
  exact congrArg Work.start (State.setPort_setPort s x.port _ _)

theorem Work.answerRead_of_orphaned (w : Work) {x : HostSlot} (tag : ReadTag) (status : ReadStatus)
    (data : List Byte) (ho : x.orphaned = true) : w.answerRead x tag status data = w := if_pos ho

theorem execReadCompletion_done {s : State} {n : HostSlotNumber} {x : HostSlot} {tag : ReadTag}
    (hx : s.slot n = some x) (hk : x.kind = .read tag) :
    execReadCompletion n false s =
      .next (((Work.start (s.carriedOut n)).answerRead x tag .ok ((s.carriedOut n).foundBytes n x)).completeSlot n
        x).settle := by
  simp only [execReadCompletion, hx, hk]
  rfl

theorem execWriteCompletion_done {s : State} {n : HostSlotNumber} {x : HostSlot} (hx : s.slot n = some x)
    (hk : x.kind = .write) :
    execWriteCompletion n s = .next ((Work.start (s.carriedOut n)).completeSlot n x).settle := by
  simp only [execWriteCompletion, hx, hk]
  rfl

/-- The damage field keeps an address that it has (R119). -/
theorem damage_orElse (d : Option PoolAddress) (a : PoolAddress) :
    d.orElse (fun _ => some a) =
      match d with
      | none => some a
      | some b => some b := by
  cases d <;> rfl

theorem execReadCompletion_failed {s : State} {n : HostSlotNumber} {x : HostSlot} {tag : ReadTag}
    (hx : s.slot n = some x) (hk : x.kind = .read tag) :
    execReadCompletion n true s =
      .next (((((Work.start (s.setLease x.lease
        { s.lease x.lease with
          damage := match (s.lease x.lease).damage with
            | none => some x.address
            | some a => some a })).raiseHolders x.lease (.damaged x.address)).onState
              (fun t => t.setAlert .damage)).answerRead x tag .poolError []).completeSlot n x).settle := by
  simp only [execReadCompletion, hx, hk, ← damage_orElse]
  rfl

/-! ## The statements -/

/-- Settles O34: the answer by `Work.answerRead_of_room`, the slot by `Work.completeSlot_of_others`. -/
theorem completionOutcome : Obligations.CompletionOutcome := by
  rintro s t u n x hx ho rfl hu
  have hclosed : u = (s.carriedOut n).slotClosed n x := by
    rw [hu, ← State.lease_carriedOut s n]
    rfl
  rw [hclosed, ← State.lease_carriedOut s n, ← State.port_carriedOut s n]
  refine ⟨fun tag hk hroom => ?_, fun hk => ?_⟩
  · have hroom' : Room (s.carriedOut n) x.port 1 := by rwa [Room, State.port_carriedOut]
    have hexec : exec (.readCompletion n false) s = _ := execReadCompletion_done hx hk
    rw [hexec, Work.answerRead_of_room tag _ _ ho hroom']
    obtain ⟨hrest, hretires⟩ := Work.settle_completeSlot (s := (s.carriedOut n).setPort x.port _) (n := n) (.inl ho)
    exact ⟨fun h => congrArg _ (hrest h), fun hstate hcount => congrArg _ (hretires hstate hcount)⟩
  · have hexec : exec (.writeCompletion n) s = _ := execWriteCompletion_done hx hk
    rw [hexec]
    obtain ⟨hrest, hretires⟩ := Work.settle_completeSlot (s := s.carriedOut n) (n := n) (.inl ho)
    exact ⟨fun h => congrArg _ (hrest h), fun hstate hcount => congrArg _ (hretires hstate hcount)⟩

/-- Settles O35: no answer (`Work.answerRead_of_orphaned`), and the slot by the two lemmas on `Work.completeSlot`. -/
theorem orphanedCompletionOutcome : Obligations.OrphanedCompletionOutcome := by
  refine ⟨?_, fun s n x tag hx hk ho => ?_⟩
  · rintro s t u n x c hx ho hc rfl hu
    have hclosed : u = (s.carriedOut n).slotClosed n x := by
      rw [hu, ← State.lease_carriedOut s n]
      rfl
    have hexec : exec c s = .next ((Work.start (s.carriedOut n)).completeSlot n x).settle := by
      cases hk : x.kind with
      | read tag =>
        rw [hk] at hc
        rw [hc, ← Work.answerRead_of_orphaned (.start (s.carriedOut n)) tag .ok _ ho]
        exact execReadCompletion_done hx hk
      | write =>
        rw [hk] at hc
        rw [hc]
        exact execWriteCompletion_done hx hk
    simp only [← State.slot_carriedOut s n]
    rw [hclosed, hexec, ← State.lease_carriedOut s n]
    refine ⟨fun hrest =>
        ⟨fun hother => congrArg _ ((Work.settle_completeSlot (.inr hother)).1 hrest), fun hlast => ?_⟩,
      fun hstate hcount => ⟨fun hother => congrArg _ ((Work.settle_completeSlot (.inr hother)).2 hstate hcount),
        fun hlast => ?_⟩⟩
    · rw [Work.completeSlot_of_last (w := .start (s.carriedOut n)) ho hlast, Work.slotDrained_of_not_retiring hrest,
        Work.endFence_of_none rfl]
      rfl
    · rw [Work.completeSlot_of_last (w := .start (s.carriedOut n)) ho hlast,
        Work.slotDrained_start_retires hstate hcount, Work.endFence_of_none (retirement_due _ _).2]
  · have hfailed := execReadCompletion_failed hx hk
    rw [Work.answerRead_of_orphaned _ tag _ _ ho] at hfailed
    exact hfailed

/-- Settles O36: the row by `execReadCompletion_failed`, the holders by `Work.raiseHolders_eq`, and the slot by the two
lemmas on `Work.completeSlot`. -/
theorem poolErrorOutcome : Obligations.PoolErrorOutcome := by
  refine ⟨fun s n x tag hx hk ho => ?_, fun w i e => w.raiseHolders_eq i e, ?_⟩
  · have hfailed := execReadCompletion_failed hx hk
    rw [Work.answerRead, if_neg (by rw [ho]; exact Bool.false_ne_true)] at hfailed
    exact hfailed
  · rintro w v u n x rfl rfl
    refine ⟨Work.completeSlot_of_others, fun ho hlast => ?_⟩
    rw [Work.completeSlot_of_last ho hlast, Work.endFence_eq]
    rfl

end Sys2Proof.Machine
end

section
/-! The completion of a zero-fill (R89, R94, R96, R97). -/

namespace Sys2Proof.Machine

open Sys2Proof.Safety

/-! ## A scan does not look at whether it is due (R65) -/

theorem Work.send_needScan (w : Work) (p : Port) (k : OutPacket) :
    w.needScan.send p k = (w.send p k).needScan := by
  unfold Work.send Work.overflow
  rw [apply_ite Work.needScan, apply_ite Work.needScan, apply_ite Work.needScan]
  rfl

theorem Work.grant_needScan (w : Work) (i : RecordIndex) (p : Port) (tag : CommandTag) (k : AcquireKind) (e : Extent)
    (term : Nat) : w.needScan.grant i p tag k e term = (w.grant i p tag k e term).needScan :=
  (w.onState (fun s => s.setLease i (s.grantedRecord i p k e term))).send_needScan p _

theorem Work.needScan_needScan (w : Work) : w.needScan.needScan = w.needScan := rfl

/-- One entry of a scan neither asks whether a scan is due nor changes it. -/
theorem Work.scanEntry_needScan (w : Work) (older : List WaitEntry) (e : WaitEntry) :
    w.needScan.scanEntry older e = ((w.scanEntry older e).1, (w.scanEntry older e).2.needScan) := by
  have hsent : ∀ (f : State → State) (a : Answer), (w.needScan.onState f).respond e.port e.tag a =
      ((w.onState f).respond e.port e.tag a).needScan := fun f a => (w.onState f).send_needScan e.port _
  have hgrant : ∀ i,
      (w.needScan.onState (fun s => s.freeTag e.port e.tag)).grant i e.port e.tag e.kind e.extent e.term =
        ((w.onState (fun s => s.freeTag e.port e.tag)).grant i e.port e.tag e.kind e.extent e.term).needScan :=
    fun i => (w.onState (fun s => s.freeTag e.port e.tag)).grant_needScan i _ _ _ _ _
  unfold Work.scanEntry
  simp only [hsent, hgrant, Work.needScan_st]
  split
  · rfl
  · split
    · rfl
    · split
      · rfl
      · split
        · rfl
        · split <;> rfl

theorem Work.scanEntries_needScan : ∀ (l : List WaitEntry) (w : Work) (older : List WaitEntry),
    w.needScan.scanEntries older l = ((w.scanEntries older l).1, (w.scanEntries older l).2.needScan) := by
  intro l
  induction l with
  | nil => exact fun _ _ => rfl
  | cons e rest ih =>
    intro w older
    have hentry := w.scanEntry_needScan older e
    rcases h : w.scanEntry older e with ⟨_ | _, w'⟩ <;> rw [h] at hentry
    · rw [Work.scanEntries_of_leaves h, Work.scanEntries_of_leaves hentry, ih]
    · rw [Work.scanEntries_of_stays h, Work.scanEntries_of_stays hentry, ih]

theorem Work.scan_needScan (w : Work) : w.needScan.scan = w.scan := by
  unfold Work.scan
  rw [Work.needScan_st, w.scanEntries_needScan]
  rfl

/-! ## The head extent and its place (R89, R96, R97) -/

section

variable {s : State} {e : Extent} {rest : List Extent} (hq : s.scrubQueue = e :: rest)

include hq

theorem Work.shrinkHead_of_more (g : Nat) (hcount : 1 < e.count) :
    (Work.start s).shrinkHead g = .start
      { s with
        scrubSlot := none, pool := s.pool.refill g .zeroed, scrubQueue := ⟨e.base + 1, e.count - 1⟩ :: rest } := by
  simp only [Work.shrinkHead, Work.onState_st, Work.start_st, hq, if_neg (not_le.2 hcount)]
  rfl

theorem Work.shrinkHead_of_last (g : Nat) (hcount : e.count ≤ 1) :
    (Work.start s).shrinkHead g =
      (Work.start { s with scrubSlot := none, pool := s.pool.refill g .zeroed, scrubQueue := rest }).serveHeld := by
  simp only [Work.shrinkHead, Work.onState_st, Work.start_st, hq, if_pos hcount]
  rfl

end

theorem Work.serveHeld_of_none {s : State} (h : s.held = []) : (Work.start s).serveHeld = .start s := by
  simp only [Work.serveHeld, Work.start_st, h]

/-- An extent that takes a place behind others does not wake the engine (R94). -/
theorem Work.serveHeld_of_head {s : State} {i : RecordIndex} {held : List RecordIndex} (h : s.held = i :: held)
    (hq : s.scrubQueue ≠ []) :
    (Work.start s).serveHeld = (Work.start
      { s.setLease i (emptyRecord (s.lease i).generation) with
        held := held
        scrubQueue := s.scrubQueue ++ [⟨(s.lease i).base, (s.lease i).count⟩] }).needScan := by
  have hjoin : ({ s.freeRecord i with held := held } : State).joinScrubQueue (s.lease i).extent =
      { s.freeRecord i with held := held, scrubQueue := s.scrubQueue ++ [(s.lease i).extent] } :=
    if_neg fun hempty => hq hempty.1
  simp only [Work.serveHeld, Work.start_st, h]
  exact congrArg (fun u => (Work.start u).needScan) hjoin

/-! ## The row (R96) -/

/-- The scan leaves the scrub queue alone, so the next zero-fill is of the head that steps 1 to 3 leave. -/
theorem execZeroFillCompletion_shrunk {s u : State} {g : Nat} (hg : s.scrubSlot = some g)
    (hu : ((Work.start s).shrinkHead g).needScan = (Work.start u).needScan) :
    execZeroFillCompletion s =
      .next (((⟨u, [], [], true⟩ : Work).scan.onState
        (fun t => { t with scrubSlot := u.scrubQueue.head?.map Extent.base })).settle) := by
  have hscan : ((Work.start s).shrinkHead g).scan = (⟨u, [], [], true⟩ : Work).scan := by
    rw [← Work.scan_needScan, hu]
    rfl
  have hissue : (⟨u, [], [], true⟩ : Work).scan.st.issueZeroFill =
      { (⟨u, [], [], true⟩ : Work).scan.st with scrubSlot := u.scrubQueue.head?.map Extent.base } := by
    rw [State.issueZeroFill_eq]
    exact congrArg (fun q : List Extent => { (⟨u, [], [], true⟩ : Work).scan.st with
      scrubSlot := q.head?.map Extent.base }) (Work.scan_frame _).scrubQueue
  unfold execZeroFillCompletion
  rw [hg]
  dsimp only
  rw [hscan, Work.onState, hissue]
  rfl

/-- Settles O38: steps 1 to 3 by the lemmas on `Work.shrinkHead` and `Work.serveHeld`, the rest by
`execZeroFillCompletion_shrunk`. -/
theorem zeroFillOutcome : Obligations.ZeroFillOutcome := by
  rintro s g e rest m hg hq rfl
  refine ⟨fun hcount => ?_, fun hcount hheld => ?_, fun i held f more hcount hheld hrest => ?_⟩
  · exact execZeroFillCompletion_shrunk hg (congrArg Work.needScan (Work.shrinkHead_of_more hq g hcount))
  · refine execZeroFillCompletion_shrunk hg (congrArg Work.needScan ?_)
    rw [Work.shrinkHead_of_last hq g hcount]
    exact Work.serveHeld_of_none hheld
  · have hserved := (Work.shrinkHead_of_last hq g hcount).trans
      (Work.serveHeld_of_head hheld (by rw [hrest]; exact List.cons_ne_nil f more))
    refine (execZeroFillCompletion_shrunk hg
      ((congrArg Work.needScan hserved).trans (Work.needScan_needScan _))).trans ?_
    rw [hrest]
    rfl

end Sys2Proof.Machine
end

section
/-! The rebuilt scrub queue (R101): the runs between the covered extents hold every other granule of the pool, and no
two of them meet. -/

namespace Sys2Proof.Machine

/-! ## The runs, one extent at a time -/

theorem mem_uncoveredRuns_nil {g start : Nat} {x : Extent} :
    x ∈ uncoveredRuns g start [] ↔ start < g ∧ x = ⟨start, g - start⟩ := by
  unfold uncoveredRuns
  split <;> simp [*]

theorem mem_uncoveredRuns_cons {g start : Nat} {e x : Extent} {rest : List Extent} :
    x ∈ uncoveredRuns g start (e :: rest) ↔
      (start < e.base ∧ x = ⟨start, e.base - start⟩) ∨ x ∈ uncoveredRuns g (max start (e.base + e.count)) rest := by
  rw [uncoveredRuns, List.mem_append]
  split <;> simp [*]

theorem one_le_count_of_mem_uncoveredRuns {g : Nat} {l : List Extent} {start : Nat} {x : Extent}
    (hx : x ∈ uncoveredRuns g start l) : 1 ≤ x.count := by
  induction l generalizing start with
  | nil =>
    obtain ⟨hlt, rfl⟩ := mem_uncoveredRuns_nil.1 hx
    exact Nat.sub_pos_of_lt hlt
  | cons e rest ih =>
    rcases mem_uncoveredRuns_cons.1 hx with ⟨hlt, rfl⟩ | hx
    · exact Nat.sub_pos_of_lt hlt
    · exact ih hx

/-- Between two runs lies an extent, and so a granule of neither. -/
theorem uncoveredRuns_apart (g : Nat) {l : List Extent} (start : Nat) (hcount : ∀ e ∈ l, 1 ≤ e.count) :
    (uncoveredRuns g start l).Pairwise (fun x y => x.base + x.count < y.base) := by
  induction l generalizing start with
  | nil =>
    unfold uncoveredRuns
    split
    · exact List.pairwise_singleton _ _
    · exact .nil
  | cons e rest ih =>
    obtain ⟨he, hrest⟩ := List.forall_mem_cons.1 hcount
    unfold uncoveredRuns
    split
    · refine List.pairwise_cons.2 ⟨fun y hy => ?_, ih _ hrest⟩
      have hbase := le_base_of_mem_uncoveredRuns g rest _ y hy
      dsimp only
      omega
    · exact ih _ hrest

/-- A granule lies in a run exactly when it lies from the start up to the pool size in none of the extents, which are
in the pool and taken lowest base first: it is below the first extent, or above it and in a run behind it. -/
theorem exists_uncoveredRun_iff {g : Nat} {l : List Extent} (k start : Nat)
    (hord : l.Pairwise (fun x y => x.base ≤ y.base)) (hpool : ∀ e ∈ l, 1 ≤ e.count ∧ e.base + e.count ≤ g) :
    (∃ x ∈ uncoveredRuns g start l, x.base ≤ k ∧ k < x.base + x.count) ↔
      (start ≤ k ∧ k < g) ∧ ∀ e ∈ l, ¬ (e.base ≤ k ∧ k < e.base + e.count) := by
  induction l generalizing start with
  | nil =>
    simp only [mem_uncoveredRuns_nil, and_assoc, exists_and_left, exists_eq_left, List.not_mem_nil, false_implies,
      implies_true, and_true]
    omega
  | cons e rest ih =>
    obtain ⟨hbelow, hordered⟩ := List.pairwise_cons.1 hord
    obtain ⟨he, hrest⟩ := List.forall_mem_cons.1 hpool
    have hbehind : k < e.base → ∀ f ∈ rest, ¬ (f.base ≤ k ∧ k < f.base + f.count) := fun hk f hf hcover =>
      absurd (hbelow f hf) (by omega)
    simp only [mem_uncoveredRuns_cons, or_and_right, exists_or, and_assoc, exists_and_left, exists_eq_left,
      List.forall_mem_cons, ih _ hordered hrest]
    constructor
    · rintro (⟨hlt, hk, hke⟩ | ⟨hk, hkg, hout⟩)
      · exact ⟨hk, by omega, by omega, hbehind (by omega)⟩
      · exact ⟨by omega, hkg, by omega, hout⟩
    · rintro ⟨hk, hkg, hnot, hout⟩
      by_cases hke : k < e.base
      · exact .inl ⟨by omega, hk, by omega⟩
      · exact .inr ⟨by omega, hkg, hout⟩

/-! ## The covered extents are those of the live leases -/

theorem State.mem_coveredExtents_iff {s : State} {e : Extent} :
    e ∈ s.coveredExtents ↔ ∃ i, (s.lease i).live = true ∧ (s.lease i).extent = e := by
  rw [s.coveredExtents_perm.mem_iff, List.mem_map]
  constructor
  · rintro ⟨r, hr, rfl⟩
    obtain ⟨hmem, hlive⟩ := List.mem_filter.1 hr
    obtain ⟨k, hk, rfl⟩ := List.getElem_of_mem hmem
    exact ⟨⟨k, by simpa using hk⟩, by simpa [State.lease] using hlive, by simp [State.lease]⟩
  · rintro ⟨i, hlive, rfl⟩
    exact ⟨_, List.mem_filter.2 ⟨s.mem_leases i, hlive⟩, rfl⟩

theorem State.uncovered_iff {s : State} (hcount : ∀ i, (s.lease i).live = true → 1 ≤ (s.lease i).count) (g : Nat) :
    (∀ e ∈ s.coveredExtents, ¬ (e.base ≤ g ∧ g < e.base + e.count)) ↔ ∀ i, (s.lease i).coversLive g = false := by
  have hcovers : ∀ i, (s.lease i).coversLive g = true ↔ (s.lease i).live = true ∧
      (s.lease i).extent.base ≤ g ∧ g < (s.lease i).extent.base + (s.lease i).extent.count := fun i => by
    unfold LeaseRecord.coversLive
    rw [Bool.and_eq_true]
    exact and_congr_right fun hlive => Extent.covers_iff (hcount i hlive) g
  simp only [Bool.eq_false_iff, ne_eq, hcovers, not_and, State.mem_coveredExtents_iff, forall_exists_index, and_imp]
  exact ⟨fun h i hlive => h _ i hlive rfl, fun h e i hlive he => he ▸ h i hlive⟩

/-! ## The rebuilt queue -/

theorem State.rebuildScrubQueue_of_initScrub {s : State} (h : s.geometry.initScrub = true) :
    s.rebuildScrubQueue.scrubQueue = uncoveredRuns s.geometry.poolGranules 0 s.coveredExtents := if_pos h

theorem State.rebuildScrubQueue_of_no_initScrub {s : State} (h : s.geometry.initScrub = false) :
    s.rebuildScrubQueue.scrubQueue = [] := if_neg (Bool.eq_false_iff.1 h)

/-- Settles O52: the queue is the runs between the extents of the live leases, and these are the granules of
`exists_uncoveredRun_iff`. -/
theorem scrubQueueRebuilt : Obligations.ScrubQueueRebuilt := by
  rintro s t rfl hlive
  refine ⟨State.rebuildScrubQueue_of_no_initScrub, fun hinit => ?_⟩
  have hpool : ∀ e ∈ s.coveredExtents, 1 ≤ e.count ∧ e.base + e.count ≤ s.geometry.poolGranules := fun e he => by
    obtain ⟨i, hi, rfl⟩ := State.mem_coveredExtents_iff.1 he
    exact hlive i hi
  have hqueue := State.rebuildScrubQueue_of_initScrub hinit
  have hcounts : ∀ x ∈ s.rebuildScrubQueue.scrubQueue, 1 ≤ x.count := fun x hx =>
    one_le_count_of_mem_uncoveredRuns (hqueue ▸ hx)
  refine ⟨fun g => ?_, ?_, hcounts⟩
  · rw [State.inScrubQueue_iff hcounts, hqueue, exists_uncoveredRun_iff g 0 s.coveredExtents_ordered hpool,
      State.uncovered_iff fun i hi => (hlive i hi).1]
    simp only [Nat.zero_le, true_and]
  · rw [hqueue]
    exact uncoveredRuns_apart _ 0 fun e he => (hpool e he).1

end Sys2Proof.Machine
end

section
/-! What a READ, a WRITE and a zero-fill find in the pool and leave in it (R96, R118), where no other operation in flight
clashes. -/

namespace Sys2Proof.Machine

/-! ## Clashes (R118) -/

theorem PoolRequest.clashes_iff (x y : PoolRequest) : x.clashes y = true ↔
    (x.stores = true ∨ y.stores = true) ∧ x.span.1 < y.span.1 + y.span.2 ∧ y.span.1 < x.span.1 + x.span.2 := by
  rw [PoolRequest.clashes, Bool.and_eq_true, Bool.or_eq_true, decide_eq_true_iff]

/-- Where one of two requests stores, they clash when their bytes meet. -/
theorem PoolRequest.clashes_iff_of_stores {x y : PoolRequest} (h : x.stores = true ∨ y.stores = true) :
    x.clashes y = true ↔ x.span.1 < y.span.1 + y.span.2 ∧ y.span.1 < x.span.1 + x.span.2 :=
  (x.clashes_iff y).trans (and_iff_right h)

theorem PoolRequest.clashes_comm (x y : PoolRequest) : x.clashes y = y.clashes x :=
  Bool.eq_iff_iff.2 (by rw [clashes_iff, clashes_iff, or_comm, and_comm (a := x.span.1 < _)])

/-! ## The operation of a host slot -/

/-- The operation of a slot is the first that names it. -/
theorem State.operationOf_first {s : State} {n : HostSlotNumber} {o : PoolOperation}
    {before after : List PoolOperation} (hl : s.operations = before ++ o :: after) (hn : o.slot = n)
    (hbefore : ∀ x ∈ before, x.slot ≠ n) : s.operationOf n = some o := by
  rw [State.operationOf, hl, List.find?_append, List.find?_eq_none.2 (by simpa using hbefore)]
  simp [hn]

theorem State.foundBytes_of_carriedOut {s : State} {n : HostSlotNumber} {o : PoolOperation} {d : List Byte}
    (x : HostSlot) (ho : s.operationOf n = some o) (hd : o.carriedOut = some d) : s.foundBytes n x = d := by
  simp only [State.foundBytes, ho, Option.bind_some, hd]

theorem State.carriedOut_of_done {s : State} {n : HostSlotNumber} {o : PoolOperation} {d : List Byte}
    (ho : s.operationOf n = some o) (hd : o.carriedOut = some d) : s.carriedOut n = s := by
  simp only [State.carriedOut, ho, hd, Option.isSome_some, if_true]

/-! ## An operation that clashes with none in flight -/

/-- Nothing is reached over clashes from a single operation with which none of the others clashes. -/
theorem clashClosure_of_none (fuel : Nat) {o : PoolOperation} {others : List PoolOperation}
    (h : ∀ y ∈ others, y.request.clashes o.request = false) : clashClosure fuel [o] others = [o] := by
  cases fuel with
  | zero => rfl
  | succ fuel =>
    refine if_pos (List.filter_eq_nil_iff.2 fun y hy => ?_)
    simp [PoolRequest.clashes_comm o.request, h y hy]

theorem State.carryOutUntil_singleton (s : State) (n : HostSlotNumber) :
    s.carryOutUntil n 1 [n] = s.carryOut n := by
  simp only [State.carryOutUntil, choose, if_true, Nat.add_zero]
  cases h : s.operationOf n <;> simp [State.carryOut, h]

/-- An operation that clashes with none in flight is alone carried out by its completion (R118). -/
theorem State.carriedOut_of_no_clash {s : State} {n : HostSlotNumber} {r : PoolRequest}
    (ho : s.operationOf n = some ⟨n, r, none⟩)
    (hclash : ∀ o ∈ s.operations, o.slot ≠ n → o.carriedOut = none → o.request.clashes r = false) :
    s.carriedOut n = s.carryOut n := by
  have hothers : ∀ y ∈ (s.operations.filter fun x => x.carriedOut.isNone).filter fun x => decide (x.slot ≠ n),
      y.request.clashes r = false := fun y hy => by
    simp only [List.mem_filter, decide_eq_true_eq, Option.isNone_iff_eq_none] at hy
    obtain ⟨⟨hmem, hwaiting⟩, hslot⟩ := hy
    exact hclash y hmem hslot hwaiting
  have hnear := clashClosure_of_none (o := ⟨n, r, none⟩)
    (s.operations.filter fun x => x.carriedOut.isNone).length hothers
  unfold State.carriedOut
  rw [ho]
  dsimp only
  rw [hnear]
  exact s.carryOutUntil_singleton n

theorem State.pool_carryOut {s : State} {n : HostSlotNumber} {o : PoolOperation} (ho : s.operationOf n = some o) :
    (s.carryOut n).pool = (o.request.carryOut s.pool).1 := by
  rw [State.carryOut, ho]

/-- The operation keeps the bytes that it found. -/
theorem State.operationOf_carryOut {s : State} {n : HostSlotNumber} {o : PoolOperation}
    (ho : s.operationOf n = some o) :
    (s.carryOut n).operationOf n = some { o with carriedOut := some (o.request.carryOut s.pool).2 } := by
  have hfind : s.operations.find? (fun x => decide (x.slot = n)) = some o := ho
  have hslot : o.slot = n := by simpa using List.find?_some hfind
  have hsame : ∀ (d : List Byte) (x : PoolOperation),
      (if x.slot = n then { x with carriedOut := some d } else x).slot = x.slot := fun d x => by split <;> rfl
  rw [State.carryOut, ho]
  simp only [State.operationOf, List.find?_map, Function.comp_def, hsame]
  rw [hfind, Option.map_some, if_pos hslot]

/-! ## The bytes -/

theorem Pool.readBytes_eq_map (m : Pool) (a l : Nat) :
    m.readBytes a l = (List.range l).map (fun k => m.readByte (a + k)) := by
  induction l generalizing a with
  | zero => rfl
  | succ l ih =>
    rw [Pool.readBytes, ih, List.range_succ_eq_map, List.map_cons, List.map_map]
    simp only [Function.comp_def, Nat.add_zero, Nat.succ_eq_add_one, Nat.add_assoc, Nat.add_comm 1]

theorem lookupKey_filter_of_dropped {α : Type} {j : Nat} (f : Nat × α → Bool) (l : List (Nat × α))
    (h : ∀ v, f (j, v) = false) : lookupKey j (l.filter f) = none := by
  induction l with
  | nil => rfl
  | cons c rest ih =>
    obtain ⟨i, w⟩ := c
    rw [List.filter_cons]
    split
    · next hf =>
      have hij : i ≠ j := fun hij => Bool.eq_false_iff.1 (h w) (hij ▸ hf)
      simp [lookupKey, ih, hij]
    · exact ih

/-- A zero-filled granule reads as zeros (R96): the bytes stored in it are gone, and its background is zero. -/
theorem Pool.readByte_refill_zeroed {m : Pool} {g a : Nat} (hm : m.wf = true) (h : granuleOf a = g) :
    (m.refill g .zeroed).readByte a = 0 := by
  have hcells : lookupKey a (m.refill g .zeroed).cells = none :=
    lookupKey_filter_of_dropped _ m.cells fun v => by simpa using h
  have hback : (m.refill g .zeroed).background (granuleOf a) = .zeroed := by
    rw [Pool.background_refill m g _ _ hm, if_pos h]
  rw [Pool.readByte, hcells, Pool.unlisted, hback]
  rfl

/-- Settles O37: an operation without a clash is carried out alone (`State.carriedOut_of_no_clash`), and what one
operation does to the bytes is said by the lemmas on the pool. -/
theorem poolContents : Obligations.PoolContents := by
  refine ⟨fun a b l m d e => ⟨rfl, PoolRequest.clashes_iff_of_stores (.inl rfl),
    PoolRequest.clashes_iff_of_stores (.inr rfl), PoolRequest.clashes_iff_of_stores (.inl rfl)⟩, Pool.readBytes_eq_map,
    fun s n o before after hl hn hbefore => ?_, fun s n a d hm ho hclash => ?_,
    fun s n x a l ho hclash => ?_, fun m g a hm => ?_⟩
  · have ho := State.operationOf_first hl hn hbefore
    exact ⟨ho, fun x d hd => ⟨State.carriedOut_of_done ho hd, State.foundBytes_of_carriedOut x ho hd⟩⟩
  · have hpool : (s.carriedOut n).pool = s.pool.writeBytes a.toNat d := by
      rw [State.carriedOut_of_no_clash ho hclash, State.pool_carryOut ho]
      rfl
    rw [hpool]
    exact ⟨fun k hk => Pool.readByte_writeBytes_inside d _ _ hm hk,
      fun b hb => Pool.readByte_writeBytes_outside d _ hb⟩
  · rw [State.carriedOut_of_no_clash ho hclash]
    exact ⟨State.pool_carryOut ho, State.foundBytes_of_carriedOut x (State.operationOf_carryOut ho) rfl⟩
  · split
    · next h => exact Pool.readByte_refill_zeroed hm h
    · next h => exact Pool.readByte_refill m .zeroed h

end Sys2Proof.Machine
end

section
/-! The law of drain counts (R116), in the form in which every effect of an event keeps it: record by record, each
against the number of host slots that name it and its place on the held list. -/

namespace Sys2Proof.Machine

open Sys2Proof.Safety

/-! ## The slots that name a record -/

/-- The host slot holds an access under the lease. -/
def slotNames (i : RecordIndex) (x : Option HostSlot) : Bool := x.any (fun y => decide (y.lease = i))

theorem slotsNaming_eq_countP (s : State) (i : RecordIndex) :
    slotsNaming s i = s.hostSlots.toList.countP (slotNames i) := by
  rw [slotsNaming, ← List.countP_eq_length_filter, List.countP_filterMap]
  exact List.countP_congr fun x _ => by cases x <;> simp [slotNames]

theorem slotsNaming_of_hostSlots {s t : State} (h : t.hostSlots = s.hostSlots) (i : RecordIndex) :
    slotsNaming t i = slotsNaming s i := by rw [slotsNaming, slotsNaming, h]

theorem slotsNaming_of_empty {s : State} (h : s.hostSlots = Vector.replicate 63 none) (i : RecordIndex) :
    slotsNaming s i = 0 := (slotsNaming_of_hostSlots (s := State.reset) (t := s) h i).trans (slotsNaming_reset i)

/-- Another content of one slot changes the numbers by what the slot names before and after. -/
theorem slotsNaming_setSlot (s : State) (n : HostSlotNumber) (x : Option HostSlot) (i : RecordIndex) :
    slotsNaming (s.setSlot n x) i + (if slotNames i (s.slot n) then 1 else 0) =
      slotsNaming s i + (if slotNames i x then 1 else 0) := by
  have hlen : n.val < s.hostSlots.toList.length := by simp
  have hget : s.hostSlots.toList[n.val] = s.slot n := by simp [State.slot]
  have hset : (s.setSlot n x).hostSlots.toList = s.hostSlots.toList.set n.val x :=
    Vector.toList_set (h := n.isLt) ..
  have hle := List.boole_getElem_le_countP (p := slotNames i) hlen
  rw [slotsNaming_eq_countP, slotsNaming_eq_countP, hset, List.countP_set hlen]
  rw [hget] at hle ⊢
  omega

theorem slotsNaming_fill {s : State} {n : HostSlotNumber} (hn : s.slot n = none) (x : HostSlot) (i : RecordIndex) :
    slotsNaming (s.setSlot n (some x)) i = slotsNaming s i + if x.lease = i then 1 else 0 := by
  simpa [hn, slotNames] using slotsNaming_setSlot s n (some x) i

theorem slotsNaming_clear {s : State} {n : HostSlotNumber} {x : HostSlot} (hx : s.slot n = some x) (i : RecordIndex) :
    slotsNaming (s.setSlot n none) i + (if x.lease = i then 1 else 0) = slotsNaming s i := by
  simpa [hx, slotNames] using slotsNaming_setSlot s n none i

/-- An orphaned slot names its lease still (R122). -/
theorem slotsNaming_orphanSlots (s : State) (p : Port) (i : RecordIndex) :
    slotsNaming (s.orphanSlots p) i = slotsNaming s i := by
  have hmap : (s.orphanSlots p).hostSlots.toList =
      s.hostSlots.toList.map (fun x => x.map (fun y => if y.port = p then { y with orphaned := true } else y)) := by
    simp [State.orphanSlots, mapVector]
  rw [slotsNaming_eq_countP, slotsNaming_eq_countP, hmap, List.countP_map]
  refine List.countP_congr fun x _ => ?_
  cases x with
  | none => rfl
  | some y => simp only [Function.comp_apply, Option.map_some, slotNames, Option.any_some]; split <;> rfl

/-! ## The law, record by record -/

/-- A record that `n` host slots name has that drain count, which is 0 when the record is FREE; a record on the held
list is DRAINING with drain count 0 (R14, R116). -/
structure LeaseRecord.Counted (r : LeaseRecord) (n : Nat) (held : Prop) : Prop where
  count : r.drainCount = n
  free : r.state = .free → n = 0
  held : held → r.state = .draining ∧ n = 0

/-- Every record of the part has the drain count of its host slots, and none is held twice. -/
def State.Counted (s : State) : Prop :=
  (∀ i, (s.lease i).Counted (slotsNaming s i) (i ∈ s.held)) ∧ s.held.Nodup

theorem State.counted_iff (s : State) : s.Counted ↔ DrainLaw s := by
  constructor
  · rintro ⟨hrec, hnodup⟩
    exact ⟨fun i => (hrec i).count, fun i hf => (hrec i).count.trans ((hrec i).free hf), hnodup,
      fun i hi => ((hrec i).held hi).imp_right (hrec i).count.trans⟩
  · rintro ⟨hcount, hfree, hnodup, hheld⟩
    exact ⟨fun i => ⟨hcount i, fun hf => (hcount i).symm.trans (hfree i hf),
      fun hi => (hheld i hi).imp_right (hcount i).symm.trans⟩, hnodup⟩

section

variable {r r' : LeaseRecord} {n : Nat} {held : Prop}

theorem LeaseRecord.Counted.of_same_state (h : r.Counted n held) (hs : r'.state = r.state)
    (hc : r'.drainCount = r.drainCount) : r'.Counted n held :=
  ⟨hc.trans h.count, fun hf => h.free (hs.symm.trans hf), fun hh => (h.held hh).imp_left hs.trans⟩

/-- A record that is not held may take any state but FREE. -/
theorem LeaseRecord.Counted.of_live (h : r.Counted n held) (hh : ¬ held) (hs : r'.state ≠ .free)
    (hc : r'.drainCount = r.drainCount) : r'.Counted n held :=
  ⟨hc.trans h.count, fun hf => absurd hf hs, fun hi => absurd hi hh⟩

/-- A drained record that is not held may become FREE. -/
theorem LeaseRecord.Counted.emptied (h : r.Counted n held) (hh : ¬ held) (hc : r.drainCount = 0) (g : BitVec 16) :
    (emptyRecord g).Counted n held :=
  ⟨hc.symm.trans h.count, fun _ => h.count.symm.trans hc, fun hi => absurd hi hh⟩

/-- A lease given out in a FREE record starts without accesses (R17, R18). -/
theorem LeaseRecord.Counted.given (h : r.Counted n held) (hf : r.state = .free) (hs : r'.state ≠ .free)
    (hc : r'.drainCount = 0) : r'.Counted n held :=
  h.of_live (fun hh => by simp [(h.held hh).1] at hf) hs (hc.trans (h.count.trans (h.free hf)).symm)

theorem LeaseRecord.Counted.not_held (h : r.Counted n held) (hf : r.inForce = true) : ¬ held := fun hh => by
  rcases r.inForce_iff.1 hf with hs | hs <;> simp [(h.held hh).1] at hs

end

theorem LeaseRecord.not_free_of_inForce {r : LeaseRecord} (h : r.inForce = true) : r.state ≠ .free := by
  rcases r.inForce_iff.1 h with hs | hs <;> simp [hs]

/-! ## Effects on single records -/

theorem State.Counted.talks {s t : State} (h : s.Counted) (ht : s.Talks t) : t.Counted := by
  rw [ht.eq]
  exact h

theorem State.Counted.onState {w : Work} {f : State → State} (h : (f w.st).Counted) : (w.onState f).st.Counted := h

theorem State.Counted.needScan {w : Work} (h : w.st.Counted) : w.needScan.st.Counted := h

theorem State.Counted.setQueue {s : State} (h : s.Counted) (q : List WaitEntry) :
    State.Counted { s with waitQueue := q } := h

theorem State.Counted.setLease {s : State} (h : s.Counted) {i : RecordIndex} {r : LeaseRecord}
    (hr : r.Counted (slotsNaming s i) (i ∈ s.held)) : (s.setLease i r).Counted := by
  refine ⟨fun j => ?_, h.2⟩
  rw [State.lease_setLease]
  split
  · next hij => exact hij ▸ hr
  · exact h.1 j

theorem State.Counted.setLease_same {s : State} (h : s.Counted) {i : RecordIndex} {r : LeaseRecord}
    (hs : r.state = (s.lease i).state) (hc : r.drainCount = (s.lease i).drainCount) : (s.setLease i r).Counted :=
  h.setLease ((h.1 i).of_same_state hs hc)

theorem State.Counted.setLease_inForce {s : State} (h : s.Counted) {i : RecordIndex} {r : LeaseRecord}
    (hf : (s.lease i).inForce = true) (hs : r.state ≠ .free) (hc : r.drainCount = (s.lease i).drainCount) :
    (s.setLease i r).Counted :=
  h.setLease ((h.1 i).of_live ((h.1 i).not_held hf) hs hc)

theorem State.Counted.freeRecord {s : State} (h : s.Counted) {i : RecordIndex} (hi : i ∉ s.held)
    (hc : (s.lease i).drainCount = 0) : (s.freeRecord i).Counted :=
  h.setLease ((h.1 i).emptied hi hc _)

theorem State.Counted.joinScrubQueue {s : State} (h : s.Counted) (e : Extent) : (s.joinScrubQueue e).Counted := by
  rw [State.joinScrubQueue_eq]
  exact h

/-- A drained record joins the held list (R88). -/
theorem State.Counted.hold {s : State} (h : s.Counted) {i : RecordIndex} (hi : i ∉ s.held)
    (hd : (s.lease i).state = .draining) (hc : (s.lease i).drainCount = 0) :
    State.Counted { s with held := s.held ++ [i] } := by
  refine ⟨fun j => ⟨(h.1 j).count, (h.1 j).free, fun hj => ?_⟩,
    List.nodup_append.2 ⟨h.2, List.nodup_singleton i, fun j hj k hk hjk => ?_⟩⟩
  · rcases List.mem_append.1 hj with hj | hj
    · exact (h.1 j).held hj
    · obtain rfl := List.mem_singleton.1 hj
      exact ⟨hd, (h.1 j).count.symm.trans hc⟩
  · exact hi (List.mem_singleton.1 hk ▸ hjk ▸ hj)

/-! ## Retirement and drains (R75, R78, R84 to R89) -/

theorem State.Counted.retire {w : Work} (h : w.st.Counted) {i : RecordIndex} (hi : i ∉ w.st.held)
    (hd : (w.st.lease i).state = .draining) (hc : (w.st.lease i).drainCount = 0) : (w.retire i).st.Counted := by
  have hfreed := h.freeRecord hi hc
  rcases w.retire_cases i with ⟨-, hr⟩ | ⟨-, -, hr⟩ | ⟨-, -, hr⟩ <;> rw [hr]
  · exact hfreed
  · exact hfreed.joinScrubQueue _
  · have hmarked : (w.st.setLease i { w.st.lease i with retireHeld := true }).Counted := h.setLease_same rfl rfl
    exact hmarked.hold hi (by simpa using hd) (by simpa using hc)

theorem State.Counted.drain {w : Work} (h : w.st.Counted) {i : RecordIndex} (hf : (w.st.lease i).inForce = true)
    (c : RevokeCause) : (w.drain i c).st.Counted := by
  have hdrained : (w.st.setLease i ((w.st.lease i).toDraining c)).Counted := h.setLease_inForce hf nofun rfl
  obtain ⟨w', rfl, ⟨hr, -⟩ | ⟨hr, hc⟩⟩ := w.drain_cases i c <;> rw [hr]
  · exact hdrained
  · refine State.Counted.retire (w := w.onState fun s => s.setLease i ((s.lease i).toDraining c)) hdrained
      ((h.1 i).not_held hf) ?_ ?_ <;> rw [Work.onState_st, State.lease_setLease, if_pos rfl]
    · rfl
    · exact hc

theorem State.Counted.removeHolder {w : Work} (h : w.st.Counted) {i : RecordIndex}
    (hf : (w.st.lease i).inForce = true) (p : Port) (c : RevokeCause) : (w.removeHolder i p c).st.Counted := by
  have hremoved : (w.st.setLease i ((w.st.lease i).withoutHolder p)).Counted := h.setLease_same rfl rfl
  obtain ⟨w', rfl, ⟨-, hr⟩ | ⟨-, hr⟩⟩ := w.removeHolder_cases i p c <;> rw [hr]
  · exact hremoved
  · exact State.Counted.drain (w := w.onState fun s => s.setLease i ((s.lease i).withoutHolder p)) hremoved
      (State.inForce_withoutHolder hf p) c

theorem State.Counted.send {w : Work} (h : w.st.Counted) {p : Port} {k : OutPacket} : (w.send p k).st.Counted :=
  h.talks (w.send_talks p k).st

theorem State.Counted.respond {w : Work} (h : w.st.Counted) {p : Port} {tag : CommandTag} {a : Answer} :
    (w.respond p tag a).st.Counted := h.send

theorem State.Counted.deliver {w : Work} (h : w.st.Counted) {p : Port} : (w.deliver p).st.Counted := by
  rcases w.deliver_cases p with ⟨-, hr⟩ | ⟨e, rest, -, hr⟩ <;> rw [hr]
  · exact h
  · exact .send (.onState h)

theorem State.Counted.raise {w : Work} (h : w.st.Counted) {p : Port} {hd : Handle} {e : NoticeEvent} :
    (w.raise p hd e).st.Counted := h.talks (w.raise_talks p hd e).st

theorem State.Counted.raiseHolders {w : Work} (h : w.st.Counted) {i : RecordIndex} {e : NoticeEvent} :
    (w.raiseHolders i e).st.Counted := h.talks (w.raiseHolders_talks i e).st

theorem State.Counted.revokeAll {w : Work} (h : w.st.Counted) {i : RecordIndex}
    (hf : (w.st.lease i).inForce = true) : (w.revokeAll i).st.Counted := by
  have htold := raisedInOrder_talks (w.st.handleOf i) (.revoked .forced) ((w.st.lease i).holders.map (·.port)) w
  rw [w.revokeAll_eq]
  exact (h.talks htold.st).drain (by rw [htold.st.lease]; exact hf) .forced

theorem State.Counted.giveNotice {w : Work} (h : w.st.Counted) {i : RecordIndex}
    (hf : (w.st.lease i).inForce = true) (d : ClockValue) : (w.giveNotice i d).st.Counted :=
  .raiseHolders (.onState (h.setLease_inForce hf (by simp) (by rfl)))

theorem State.Counted.poolError {w : Work} (h : w.st.Counted) (i : RecordIndex) (a : PoolAddress) :
    (w.poolError i a).st.Counted :=
  .onState (.raiseHolders (.onState (h.setLease_same (by rfl) (by rfl))))

/-- The place that a removal frees goes to a drained record (R89). -/
theorem State.Counted.serveHeld {w : Work} (h : w.st.Counted) : w.serveHeld.st.Counted := by
  unfold Work.serveHeld
  split
  · exact h
  · next i rest hheld =>
    obtain ⟨hrec, hnodup⟩ := h
    rw [hheld] at hrec hnodup
    obtain ⟨hnot, hrest⟩ := List.nodup_cons.1 hnodup
    have hwaiting : State.Counted { w.st with held := rest } :=
      ⟨fun j => ⟨(hrec j).count, (hrec j).free, fun hj => (hrec j).held (List.mem_cons_of_mem i hj)⟩, hrest⟩
    have hdrained := (hrec i).count.trans ((hrec i).held List.mem_cons_self).2
    exact (hwaiting.freeRecord hnot hdrained).joinScrubQueue _

/-! ## Grants and scans (R17, R66) -/

theorem State.Counted.grant {w : Work} (h : w.st.Counted) {i : RecordIndex} (hf : (w.st.lease i).state = .free)
    (p : Port) (tag : CommandTag) (k : AcquireKind) (e : Extent) (term : Nat) :
    (w.grant i p tag k e term).st.Counted :=
  .respond (.onState (h.setLease ((h.1 i).given hf (by simp [State.grantedRecord]) (by rfl))))

theorem State.Counted.scan {w : Work} (h : w.st.Counted) : w.scan.st.Counted := by
  refine Work.scanEntries_keeps (Q := fun x => x.st.Counted) (fun x older e hx => ?_) w.st.waitQueue w [] h
  have hfreed : (x.onState fun s => s.freeTag e.port e.tag).st.Counted := hx
  rcases x.scanEntry_cases older e with hs | ⟨a, hs⟩ | ⟨i, hi, -, -, -, -, hs⟩ <;> rw [hs]
  · exact hx
  · exact hfreed.respond
  · exact hfreed.grant (State.lowestFree_free hi) _ _ _ _ _

/-! ## Fences and the end of an event (R76, R122, R146, R148) -/

/-- A lease that lost the port keeps its drain count, and is not FREE when it was in force. -/
theorem LeaseRecord.Counted.fenceOff {r : LeaseRecord} {n : Nat} {held : Prop} (h : r.Counted n held)
    (hf : r.inForce = true) (p : Port) : (r.fenceOff p).Counted n held := by
  obtain ⟨hsame | hdrains, hcount⟩ : ((r.fenceOff p).state = r.state ∨ (r.fenceOff p).state = .draining) ∧
      (r.fenceOff p).drainCount = r.drainCount := by
    refine ⟨(r.fenceOff_cases p).2, ?_⟩
    unfold LeaseRecord.fenceOff
    extract_lets r'
    split <;> rfl
  · exact h.of_same_state hsame hcount
  · exact h.of_live (h.not_held hf) (by simp [hdrains]) hcount

/-- The lease table after it has lost a port: the retirement steps are of leases that were in force, and so not held,
and whose drain count is 0. -/
theorem State.LosesPort.counted {s t : State} {p : Port} {order : List RecordIndex} (hl : s.LosesPort t p order)
    (h : s.Counted) (hslots : t.hostSlots = s.hostSlots) : t.Counted := by
  have horder : ∀ i, i ∈ order ↔ retiresAtFence s p i = true ∧ scrubNeeded s (s.lease i) = true := fun i => by
    rw [hl.perm.mem_iff]; simp
  have hnodup : order.Nodup := hl.perm.nodup_iff.2 ((List.nodup_finRange 256).filter _)
  have hretires : ∀ i, retiresAtFence s p i = true → i ∉ s.held ∧ (s.lease i).drainCount = 0 := fun i hi => by
    obtain ⟨hmem, -, hzero⟩ := retiresAtFence_iff.1 hi
    rw [LeaseRecord.fenceOff_of_retires hi] at hzero
    exact ⟨(h.1 i).not_held (State.mem_fencedLeases hmem), hzero⟩
  have hnew : ∀ i ∈ order.drop (512 - s.scrubQueue.length), retiresAtFence s p i = true := fun i hi =>
    ((horder i).1 (List.mem_of_mem_drop hi)).1
  refine ⟨fun i => ?_, ?_⟩
  · rw [slotsNaming_of_hostSlots hslots, hl.held, List.mem_append]
    by_cases hd : i ∈ order.drop (512 - s.scrubQueue.length)
    · have hcount := (h.1 i).count
      rw [hl.kept i hd]
      exact ⟨hcount, nofun, fun _ => ⟨rfl, hcount.symm.trans (hretires i (hnew i hd)).2⟩⟩
    · rw [or_iff_left hd]
      by_cases hf : i ∈ s.fencedLeases p
      · cases hr : retiresAtFence s p i with
        | false =>
          rw [hl.left i hf hr]
          exact (h.1 i).fenceOff (State.mem_fencedLeases hf) p
        | true =>
          have hempty : t.lease i = emptyRecord (s.lease i).generation := by
            cases hn : scrubNeeded s (s.lease i) with
            | false => exact hl.plain i hr hn
            | true =>
              have hmem := (horder i).2 ⟨hr, hn⟩
              rw [← List.take_append_drop (512 - s.scrubQueue.length) order, List.mem_append, or_iff_left hd] at hmem
              exact hl.freed i hmem
          rw [hempty]
          exact (h.1 i).emptied (hretires i hr).1 (hretires i hr).2 _
      · rw [hl.untouched i hf]
        exact h.1 i
  · rw [hl.held]
    exact List.nodup_append.2 ⟨h.2, hnodup.sublist (List.drop_sublist _ _), fun i hi j hj hij =>
      (hretires j (hnew j hj)).1 (hij ▸ hi)⟩

theorem State.Counted.fenceLeases {w : Work} (h : w.st.Counted) (p : Port) : (w.fenceLeases p).st.Counted := by
  obtain ⟨order, hl⟩ := w.fenceLeases_losesPort p
  exact hl.counted h (by rw [(w.fenceLeases_onTable p).st])

theorem State.Counted.orphanSlots {s : State} (h : s.Counted) (p : Port) : (s.orphanSlots p).Counted :=
  ⟨fun i => (slotsNaming_orphanSlots s p i).symm ▸ h.1 i, h.2⟩

theorem State.Counted.fenceStart {w : Work} (h : w.st.Counted) {p : Port} {c : FenceCause} {hello : Option HostId} :
    (w.fenceStart p c hello).st.Counted := by
  have hport : (w.onState fun s => (s.setPort p ((s.port p).fence c hello)).setAlert (.portFenced p)).st.Counted := h
  rw [Work.fenceStart_st]
  generalize w.onState (fun s => (s.setPort p ((s.port p).fence c hello)).setAlert (.portFenced p)) = w1 at hport ⊢
  exact ((hport.fenceLeases p).setQueue _).orphanSlots p

theorem State.Counted.enterOnline {w : Work} (h : w.st.Counted) {p : Port} {host : HostId} :
    (w.enterOnline p host).st.Counted :=
  State.Counted.talks (s := w.st.setPort p ((w.st.port p).goOnline host)) h (w.enterOnline_eq p host).st

theorem State.Counted.fenceEnd {w : Work} (h : w.st.Counted) {p : Port} : (w.fenceEnd p).st.Counted := by
  rcases w.fenceEnd_cases p with hr | ⟨-, -, hr⟩ | ⟨-, -, -, hr⟩ | ⟨host, -, -, -, hr⟩ <;> rw [hr]
  · exact h
  · exact h
  · exact h
  · exact h.enterOnline

theorem State.Counted.settle {w : Work} (h : w.st.Counted) : w.settle.Counted :=
  Work.settle_keeps (P := State.Counted) (fun _ _ hs => hs) (fun _ _ _ _ hw => hw.fenceStart) (fun _ hw => hw.scan)
    (fun _ _ hw => hw.fenceEnd) w h

theorem Work.done_counted {w : Work} {t : State} (hd : w.done = .next t) (h : w.st.Counted) : t.Counted :=
  (Work.done_eq_next_iff w t).1 hd ▸ h.settle

/-! ## Host slots filled and freed (R111, R117) -/

/-- An access admitted under a lease in force occupies a free slot and is counted. -/
theorem State.Counted.admitted {s : State} (h : s.Counted) {n : HostSlotNumber} (hn : s.slot n = none) {x : HostSlot}
    (hf : (s.lease x.lease).inForce = true) : ((s.setSlot n (some x)).countAdmission x.lease).Counted := by
  refine ⟨fun j => ?_, h.2⟩
  have hnaming : slotsNaming ((s.setSlot n (some x)).countAdmission x.lease) j = _ := slotsNaming_fill hn x j
  rw [hnaming, State.lease_countAdmission]
  split
  · next hj =>
    subst hj
    exact ⟨congrArg (· + 1) (h.1 _).count, fun hs => absurd hs (LeaseRecord.not_free_of_inForce hf),
      fun hh => absurd hh ((h.1 _).not_held hf)⟩
  · exact h.1 j

/-- A lease that an occupied slot names is neither FREE nor held. -/
theorem State.Counted.of_slot {s : State} (h : s.Counted) {n : HostSlotNumber} {x : HostSlot}
    (hx : s.slot n = some x) : (s.lease x.lease).state ≠ .free ∧ x.lease ∉ s.held := by
  have hpos : slotsNaming s x.lease ≠ 0 := by
    rw [← slotsNaming_clear hx, if_pos rfl]
    exact Nat.succ_ne_zero _
  exact ⟨fun hs => hpos ((h.1 _).free hs), fun hh => hpos ((h.1 _).held hh).2⟩

/-- Steps 3 and 4 of a completion but for the retirement: the slot is freed, and the count of its lease falls by 1. -/
theorem State.Counted.slotClosed {s : State} (h : s.Counted) {n : HostSlotNumber} {x : HostSlot}
    (hx : s.slot n = some x) : (s.slotClosed n x).Counted := by
  obtain ⟨hfree, hheld⟩ := h.of_slot hx
  refine ⟨fun j => ?_, h.2⟩
  have hclear := slotsNaming_clear hx j
  have hlease : (s.slotClosed n x).lease j = _ := State.lease_setLease (s.setSlot n none) x.lease j _
  have hnaming : slotsNaming (s.slotClosed n x) j = slotsNaming (s.setSlot n none) j := rfl
  rw [hlease, hnaming]
  split
  · next hj =>
    subst hj
    rw [if_pos rfl, ← (h.1 _).count] at hclear
    exact ⟨Nat.sub_eq_of_eq_add hclear.symm, fun hs => absurd hs hfree, fun hh => absurd hh hheld⟩
  · next hj =>
    rw [if_neg hj, Nat.add_zero] at hclear
    rw [hclear]
    exact h.1 j

theorem State.Counted.completeSlot {w : Work} (h : w.st.Counted) {n : HostSlotNumber} {x : HostSlot}
    (hx : w.st.slot n = some x) : (w.completeSlot n x).st.Counted := by
  have hclosed := h.slotClosed hx
  obtain ⟨-, hheld⟩ := h.of_slot hx
  have hdrained : (w.slotDrained n x).st.Counted := by
    unfold Work.slotDrained
    split
    · next hr =>
      have hlease : (w.st.slotClosed n x).lease x.lease = _ :=
        (State.lease_setLease (w.st.setSlot n none) x.lease x.lease _).trans (if_pos rfl)
      rw [← Work.retire_eq]
      exact State.Counted.retire (w := { w with st := w.st.slotClosed n x }) hclosed hheld
        (by rw [hlease]; exact hr.1) (by rw [hlease]; exact hr.2)
    · exact hclosed
  unfold Work.completeSlot
  rw [Work.drainOne_eq_slotDrained]
  extract_lets w'
  split
  · rw [Work.endFence_st]; exact hdrained
  · exact hdrained

/-! ## Start-up and resets (R2, R18, R73, R160) -/

/-- A standing lease is given out in a FREE record, and takes no host slot. -/
theorem State.Counted.instantiate {s : State} (h : s.Counted) : s.instantiate.Counted := by
  have honly := s.instantiate_only
  have hheld : s.instantiate.held = s.held := by rw [honly]
  refine ⟨fun i => ?_, hheld.symm ▸ h.2⟩
  rw [slotsNaming_of_hostSlots honly.hostSlots_eq, hheld]
  rcases s.lease_instantiate i with hi | ⟨hf, n, -, hi⟩ <;> rw [hi]
  · exact h.1 i
  · exact (h.1 i).given hf nofun rfl

theorem State.counted_of_blank {s : State} (hl : ∀ i, ∃ g, s.lease i = emptyRecord g)
    (hn : s.hostSlots = Vector.replicate 63 none) (hh : s.held = []) : s.Counted := by
  refine ⟨fun i => ?_, hh ▸ .nil⟩
  obtain ⟨g, hg⟩ := hl i
  rw [hg, slotsNaming_of_empty hn, hh]
  exact ⟨rfl, fun _ => rfl, nofun⟩

end Sys2Proof.Machine
end

section
/-! Every event keeps the law of drain counts, row by row, and so does every step (R116). -/

namespace Sys2Proof.Machine

open Sys2Proof.Safety

/-! ## Arrivals and link events, which reach the lease table by their fences alone -/

/-- An arrival keeps the law when what its row does with the packet keeps it. -/
theorem arrival_counted {p : Port} {k : RawPacket} {act : Packet → Option (Host.Outcome State Fault Refusal)}
    {s t : State} (hs : s.Counted) (h : arrival p k act s = .next t)
    (hact : ∀ x o, act x = some o → o = .next t → t.Counted) : t.Counted := by
  obtain ⟨-, rfl | ⟨-, x, o, -, hx, ho⟩⟩ := arrival_next h
  · exact hs
  · exact hact x o hx ho

theorem queueAccess_counted {p : Port} {a : Access} {s t : State} (hs : s.Counted)
    (h : queueAccess p a s = .next t) : t.Counted := by
  unfold queueAccess at h
  split at h
  · split at h <;> cases h
    exact hs
  · split at h <;> cases h
    exact hs
  all_goals cases h
  exact hs

theorem queueCommand_counted {p : Port} {c : CommandPacket} {s t : State} (hs : s.Counted)
    (h : queueCommand p c s = .next t) : t.Counted := by
  unfold queueCommand at h
  split at h
  · split at h <;> cases h
    exact hs
  all_goals cases h
  · exact hs
  · exact hs

theorem takeAck_counted {p : Port} {q : BitVec 16} {s t : State} (hs : s.Counted) (h : takeAck p q s = .next t) :
    t.Counted := by
  unfold takeAck at h
  split at h
  · split at h
    · exact Work.done_counted h (.deliver (.onState hs))
    · cases h; exact hs
  all_goals cases h
  · exact hs
  · exact hs

theorem takeHello_counted {p : Port} {host : HostId} {s t : State} (hs : s.Counted)
    (h : takeHello p host s = .next t) : t.Counted := by
  unfold takeHello at h
  split at h
  · exact Work.done_counted h (.enterOnline hs)
  · exact Work.done_counted h (.fenceStart hs)
  all_goals cases h
  exact hs

theorem execLinkUp_counted {p : Port} {s t : State} (hs : s.Counted) (h : execLinkUp p s = .next t) : t.Counted := by
  unfold execLinkUp at h
  split at h
  · cases h
  extract_lets r at h
  split at h
  · cases h; exact hs
  split at h <;> cases h
  · exact hs
  · exact hs

theorem execLinkLoss_counted {p : Port} {s t : State} (hs : s.Counted) (h : execLinkLoss p s = .next t) :
    t.Counted := by
  unfold execLinkLoss at h
  split at h
  · cases h
  extract_lets _ r at h
  split at h
  · cases h; exact hs
  split at h
  · cases h; exact hs
  · exact Work.done_counted h (.fenceStart hs)
  all_goals cases h
  exact hs

theorem execPacketSent_counted {p : Port} {s t : State} (hs : s.Counted) (h : execPacketSent p s = .next t) :
    t.Counted := by
  unfold execPacketSent at h
  split at h <;> cases h
  exact hs

/-! ## Commands (Chapter 3) -/

/-- A taking of a command keeps the law when its row's action does. -/
theorem takeCommand_counted {act : Port → CommandTag → LeaseCommand → Option (Work → Work)} {s t : State}
    (hs : s.Counted) (h : takeCommand act s = .next t)
    (hact : ∀ p tag x f (w : Work), act p tag x = some f → w.st.Counted → (f w).st.Counted) : t.Counted := by
  obtain ⟨p, c, f, -, hf, rfl⟩ := takeCommand_next h
  have htaken : (Work.start (s.commandTaken p)).st.Counted := hs
  refine State.Counted.settle ?_
  unfold withFreeTag
  split
  · exact htaken.respond
  · exact hact p c.tag c.command f _ hf htaken

/-- A command answered by the first check it fails, or else as it passes. -/
theorem State.Counted.checked {w passed : Work} {o : Option Answer} (h : w.st.Counted)
    (hpassed : o = none → passed.st.Counted) (p : Port) (tag : CommandTag) :
    (o.elim passed (w.respond p tag)).st.Counted := by
  cases o with
  | none => exact hpassed rfl
  | some a => exact h.respond

section

variable {w : Work} (hw : w.st.Counted) (p : Port) (tag : CommandTag) (hd : Handle) (term : Nat)

include hw

theorem notGrantable_counted (k : AcquireKind) (e : Extent) (maxWait : Nat) :
    (notGrantable p tag k e term maxWait w).st.Counted := by
  unfold notGrantable
  split
  · split <;> exact hw.respond
  · split
    · exact hw.respond
    · exact hw

theorem acquirePassed_counted (k : AcquireKind) (e : Extent) (maxWait : Nat) :
    (acquirePassed p tag k e term maxWait w).st.Counted := by
  unfold acquirePassed
  split
  · exact notGrantable_counted hw ..
  split
  · exact notGrantable_counted hw ..
  · next hi => exact hw.grant (State.lowestFree_free hi) ..

theorem acquire_counted (kind : Byte) (e : Extent) (maxWait : Nat) :
    (acquire p tag kind e term maxWait w).st.Counted := by
  rw [acquire_eq]
  exact hw.checked (fun _ => acquirePassed_counted hw ..) p tag

theorem join_counted : (join p tag hd term w).st.Counted := by
  have hset : (w.st.setLease hd.index (w.st.joinedRecord hd.index p term)).Counted := hw.setLease_same rfl rfl
  rw [join_eq]
  exact hw.checked (fun _ => .respond (.onState hset)) p tag

theorem renew_counted : (renew p tag hd term w).st.Counted := by
  have hset : (w.st.setLease hd.index (w.st.renewedRecord hd.index p term)).Counted := hw.setLease_same rfl rfl
  rw [renew_eq]
  exact hw.checked (fun _ => .respond (.onState hset)) p tag

theorem convert_counted : (convert p tag hd w).st.Counted := by
  have hset : (w.st.setLease hd.index (w.st.lease hd.index).converted).Counted := hw.setLease_same rfl rfl
  rw [convert_eq]
  exact hw.checked (fun _ => .respond (.onState hset)) p tag

/-- A RELEASE that passes its checks is of a lease in force. -/
theorem release_counted : (release p tag hd w).st.Counted := by
  unfold release
  extract_lets r
  split
  · exact hw.respond
  next hres =>
  split
  · exact hw.respond
  next hdrain =>
  split
  · exact hw.respond
  split
  · exact hw.respond
  · exact (hw.removeHolder (State.inForce_of_resolves hres hdrain) p .released).respond

theorem cancel_counted (target : Byte) : (cancel p tag target w).st.Counted := by
  unfold cancel
  split
  · exact hw.respond
  · next e _ =>
    have hleft : (w.onState fun s => s.leaveWaitQueue e).st.Counted := hw
    exact hleft.respond.respond.needScan

end

/-! ## Deadlines -/

theorem execWaitDeadlineExpiry_counted {p : Port} {tag : CommandTag} {s t : State} (hs : s.Counted)
    (h : execWaitDeadlineExpiry p tag s = .next t) : t.Counted := by
  unfold execWaitDeadlineExpiry at h
  split at h
  · cases h
  next e _ =>
  split at h
  · have hleft : ((Work.start s).onState fun t => t.leaveWaitQueue e).st.Counted := hs
    exact Work.done_counted h hleft.respond.needScan
  · cases h

theorem execHolderExpiry_counted {i : RecordIndex} {p : Port} {s t : State} (hs : s.Counted)
    (h : execHolderExpiry i p s = .next t) : t.Counted := by
  unfold execHolderExpiry at h
  split at h
  · cases h
  next hforce =>
  split at h
  · cases h
  split at h
  · exact Work.done_counted h (.raise (.removeHolder hs (by simpa using hforce) p .expired))
  · cases h

theorem execNoticeDeadline_counted {i : RecordIndex} {s t : State} (hs : s.Counted)
    (h : execNoticeDeadline i s = .next t) : t.Counted := by
  unfold execNoticeDeadline at h
  split at h
  · cases h
  next hstate =>
  split at h
  · cases h
  split at h
  · exact Work.done_counted h (.revokeAll hs ((LeaseRecord.inForce_iff _).2 (.inr (not_not.1 hstate))))
  · cases h

theorem execAckTimerExpiry_counted {p : Port} {s t : State} (hs : s.Counted)
    (h : execAckTimerExpiry p s = .next t) : t.Counted := by
  unfold execAckTimerExpiry at h
  split at h
  · split at h
    · split at h
      · exact Work.done_counted h (.send (.onState hs))
      · exact Work.done_counted h (.fenceStart hs)
    · cases h
  · cases h

theorem execLeaseClockTick_counted {s t : State} (hs : s.Counted) (h : execLeaseClockTick s = .next t) :
    t.Counted := by
  unfold execLeaseClockTick at h
  split at h <;> cases h <;> exact hs

/-! ## Accesses (Chapter 7) -/

/-- An access is admitted under a lease in force (R37). -/
theorem State.inForce_of_checkAccess {s : State} {p : Port} {tag : Option ReadTag} {k : AccessKind}
    {a : PoolAddress} {length : Nat} {i : RecordIndex} (h : s.checkAccess p tag k a length = .admitted i) :
    (s.lease i).inForce = true := by
  unfold State.checkAccess at h
  iterate 4
    split at h
    · cases h
  have hadmits := State.admission_admitted h
  simp only [LeaseRecord.admits, Bool.and_eq_true] at hadmits
  obtain ⟨⟨hforce, -⟩, -⟩ := hadmits
  exact hforce

theorem takeRead_counted {w : Work} (h : w.st.Counted) {n : HostSlotNumber} (hn : w.st.slot n = none) {p : Port}
    {tag : ReadTag} {a : PoolAddress} {length : Nat} : (takeRead n p tag a length w).st.Counted := by
  unfold takeRead
  split
  · next i hi =>
    exact State.Counted.admitted h hn (x := w.st.admittedSlot p (.read tag) a length i) (State.inForce_of_checkAccess hi)
  · exact .send (.onState h)

theorem takeWrite_counted {w : Work} (h : w.st.Counted) {n : HostSlotNumber} (hn : w.st.slot n = none) {p : Port}
    {a : PoolAddress} {length : BitVec 16} {data : List Byte} : (takeWrite n p a length data w).st.Counted := by
  unfold takeWrite
  split
  · next i hi =>
    exact State.Counted.admitted h hn (x := w.st.admittedSlot p .write a length.toNat i) (State.inForce_of_checkAccess hi)
  · exact .send (.onState h)

theorem execReadTaking_counted {s t : State} (hs : s.Counted) (h : execReadTaking s = .next t) : t.Counted := by
  unfold execReadTaking at h
  split at h
  · cases h
  next hn =>
  split at h
  · exact Work.done_counted h (takeRead_counted hs (State.freeSlot_free hn))
  · cases h

theorem execWriteTaking_counted {s t : State} (hs : s.Counted) (h : execWriteTaking s = .next t) : t.Counted := by
  unfold execWriteTaking at h
  split at h
  · cases h
  next hn =>
  split at h
  · exact Work.done_counted h (takeWrite_counted hs (State.freeSlot_free hn))
  · cases h

/-- Step 2 of a completion, the answer to a READ, changes a port alone (R117). -/
theorem State.Counted.answerRead {w : Work} (h : w.st.Counted) (x : HostSlot) (tag : ReadTag) (status : ReadStatus)
    (data : List Byte) : (w.answerRead x tag status data).st.Counted ∧
      ∀ m, (w.answerRead x tag status data).st.slot m = w.st.slot m := by
  unfold Work.answerRead
  split
  · exact ⟨h, fun _ => rfl⟩
  · exact ⟨.send (.onState h), fun m => by rw [(Work.send_talks _ _ _).st.eq]; rfl⟩

theorem State.Counted.carriedOut {s : State} (h : s.Counted) (n : HostSlotNumber) : (s.carriedOut n).Counted := by
  rw [(s.carriedOut_poolOnly n).eq]
  exact h

theorem State.slot_poolError (w : Work) (i : RecordIndex) (a : PoolAddress) (m : HostSlotNumber) :
    (w.poolError i a).st.slot m = w.st.slot m :=
  congrArg (fun v : Vector (Option HostSlot) 63 => v[m]) (w.poolError_calm i a).st.hostSlots

theorem execReadCompletion_counted {n : HostSlotNumber} {e : Bool} {s t : State} (hs : s.Counted)
    (h : execReadCompletion n e s = .next t) : t.Counted := by
  unfold execReadCompletion at h
  split at h
  · cases h
  next x hx =>
  split at h
  · next tag _ =>
    split at h
    · obtain ⟨hanswered, hslot⟩ := (State.Counted.poolError (w := .start s) hs x.lease x.address).answerRead x tag
        .poolError []
      exact Work.done_counted h (hanswered.completeSlot (by rw [hslot, State.slot_poolError]; exact hx))
    · obtain ⟨hanswered, hslot⟩ := State.Counted.answerRead
        (w := (Work.start s).onState fun s => s.carriedOut n) (hs.carriedOut n) x tag .ok _
      exact Work.done_counted h (hanswered.completeSlot (by rw [hslot]; exact (s.slot_carriedOut n n).trans hx))
  · cases h

theorem execWriteCompletion_counted {n : HostSlotNumber} {s t : State} (hs : s.Counted)
    (h : execWriteCompletion n s = .next t) : t.Counted := by
  unfold execWriteCompletion at h
  split at h
  · cases h
  next x hx =>
  split at h
  · cases h
  · exact Work.done_counted h (.completeSlot (.onState (hs.carriedOut n)) ((s.slot_carriedOut n n).trans hx))

/-! ## The scrub engine (R96, R97) -/

theorem State.Counted.shrinkHead {w : Work} (h : w.st.Counted) (g : Nat) : (w.shrinkHead g).st.Counted := by
  unfold Work.shrinkHead
  extract_lets w1
  split
  · exact h
  split
  · exact State.Counted.serveHeld (.onState h)
  · exact h

theorem execZeroFillCompletion_counted {s t : State} (hs : s.Counted) (h : execZeroFillCompletion s = .next t) :
    t.Counted := by
  unfold execZeroFillCompletion at h
  split at h
  · cases h
  next g _ =>
  refine Work.done_counted h ?_
  rw [Work.onState_st, State.issueZeroFill_eq]
  exact (State.Counted.shrinkHead (w := .start s) hs g).scan

/-! ## The service unit (Chapter 11) -/

/-- A request keeps the law when its effects do. -/
theorem service_counted {code : Byte} {act : Work → Work × ServiceResult × List Byte} {s t : State} (hs : s.Counted)
    (h : service code act s = .next t) (hact : (act (.start s)).1.st.Counted) : t.Counted := by
  rcases service_next h with ⟨-, rfl⟩ | ⟨-, rfl⟩
  · exact hs
  · exact State.Counted.settle (.onState hact)

theorem report_counted {code : Byte} {fields : State → List Byte} {s t : State} (hs : s.Counted)
    (h : report code fields s = .next t) : t.Counted := service_counted hs h hs

theorem execBadFrame_counted {l : List Byte} {s t : State} (hs : s.Counted) (h : execBadFrame l s = .next t) :
    t.Counted := by
  unfold execBadFrame at h
  split at h
  · exact service_counted hs h hs
  · cases h

theorem execBadCommand_counted {l : List Byte} {s t : State} (hs : s.Counted) (h : execBadCommand l s = .next t) :
    t.Counted := by
  unfold execBadCommand at h
  split at h
  · exact service_counted hs h hs
  · cases h

theorem execPortReset_counted {b : Byte} {s t : State} (hs : s.Counted) (h : execPortReset b s = .next t) :
    t.Counted :=
  service_counted hs h <| by
    split
    · exact hs
    · dsimp only
      split
      · exact State.Counted.fenceStart hs
      · exact hs

theorem forceRevoke_counted {w : Work} (h : w.st.Counted) (hd : Handle) (grace : Nat) :
    (forceRevoke hd grace w).1.st.Counted := by
  unfold forceRevoke
  extract_lets r
  split
  · exact h
  next hres =>
  split
  · exact h
  next hdrain =>
  have hforce : r.inForce = true := State.inForce_of_resolves hres hdrain
  split
  · exact h.revokeAll hforce
  split
  · split
    · exact h
    · exact h.giveNotice hforce _
  · exact h.giveNotice hforce _

theorem execForceRevoke_counted {hd : Handle} {b : BitVec 16} {s t : State} (hs : s.Counted)
    (h : execForceRevoke hd b s = .next t) : t.Counted :=
  service_counted hs h <| by
    split
    · exact hs
    · exact forceRevoke_counted (w := .start s) hs hd b.toNat

theorem execFieldWrite_counted {x : Selector} {v : BitVec 24} {s t : State} (hs : s.Counted)
    (h : execFieldWrite x v s = .next t) : t.Counted :=
  service_counted hs h <| by
    split
    · exact hs
    split
    · exact hs
    dsimp only
    split <;> exact hs

theorem execProfileSave_counted {b : Byte} {s t : State} (hs : s.Counted) (h : execProfileSave b s = .next t) :
    t.Counted :=
  service_counted hs h <| by
    split
    · exact hs
    split
    · exact hs
    split <;> exact hs

theorem execProfileLoad_counted {b : Byte} {s t : State} (hs : s.Counted) (h : execProfileLoad b s = .next t) :
    t.Counted :=
  service_counted hs h <| by
    split
    · exact hs
    split
    · exact hs
    split <;> exact hs

theorem execBootSelect_counted {b : Byte} {s t : State} (hs : s.Counted) (h : execBootSelect b s = .next t) :
    t.Counted :=
  service_counted hs h <| by
    split
    · exact hs
    split <;> exact hs

theorem execNvOperationComplete_counted {b : Bool} {s t : State} (hs : s.Counted)
    (h : execNvOperationComplete b s = .next t) : t.Counted := by
  unfold execNvOperationComplete at h
  split at h
  · cases h
  next o _ =>
  split at h <;> cases h
  · cases o <;> exact hs
  · exact hs

/-! ## Resets, start-up and readiness (Chapter 10) -/

/-- Steps 3 to 6 of a start-up (R158, R161). -/
theorem startedUp_counted {s : State} (h : s.Counted) (f : Profile) (source : StartUpSource)
    (fallback : Option FallbackReason) (powerOn : Bool) : (startedUp (captured s f source fallback) powerOn).Counted :=
  State.Counted.instantiate (s := captured s f source fallback) h

theorem State.Counted.powerOnStartUp {s : State} (h : s.Counted) : s.powerOnStartUp.Counted := by
  have hfallback : s.withFallback.Counted := by rw [State.withFallback_eq]; exact h
  exact startedUp_counted hfallback ..

theorem State.Counted.deviceResetStartUp {s : State} (h : s.Counted) : s.deviceResetStartUp.Counted :=
  startedUp_counted h ..

theorem State.powerOnBlank_counted (s : State) : s.powerOnBlank.Counted :=
  State.counted_of_blank (fun i => ⟨0, s.powerOnBlank_lease i⟩) rfl rfl

theorem State.deviceResetBlocks_counted (s : State) : s.deviceResetBlocks.Counted :=
  State.counted_of_blank (fun i => ⟨_, s.deviceResetBlocks_lease i⟩) (by rw [State.deviceResetBlocks_eq])
    (by rw [State.deviceResetBlocks_eq])

theorem execPowerOnReset_counted {s t : State} (h : execPowerOnReset s = .next t) : t.Counted := by
  have hblank := s.powerOnBlank_counted
  unfold execPowerOnReset at h
  split at h <;> cases h
  · exact hblank
  · exact hblank.powerOnStartUp

theorem execDeviceReset_counted {s t : State} (hs : s.Counted) (h : execDeviceReset s = .next t) : t.Counted := by
  unfold execDeviceReset at h
  split at h <;> cases h
  · exact hs
  · exact (State.deviceResetBlocks_counted _).deviceResetStartUp

theorem execResetAssert_counted {s t : State} (h : execResetAssert s = .next t) : t.Counted := by
  unfold execResetAssert at h
  split at h <;> cases h
  exact s.deviceResetBlocks_counted

theorem execResetRelease_counted {s t : State} (hs : s.Counted) (h : execResetRelease s = .next t) : t.Counted := by
  unfold execResetRelease at h
  split at h <;> cases h
  · exact hs.powerOnStartUp
  · exact hs.deviceResetStartUp

theorem execBecomeReady_counted {s t : State} (hs : s.Counted) (h : execBecomeReady s = .next t) : t.Counted := by
  unfold execBecomeReady at h
  split at h
  · extract_lets s1 at h
    have hready : s1.Counted := hs
    cases h
    rw [State.issueZeroFill_eq]
    split
    · rw [State.linkAlerts_eq]; exact hready
    · exact hready
  all_goals cases h

/-! ## Every command and every step -/

theorem exec_counted {c : Instr} {s t : State} (hs : s.Counted) (h : exec c s = .next t) : t.Counted := by
  cases c with
  | readArrival p k =>
    refine arrival_counted hs (show execReadArrival p k s = .next t from h) fun x o hx ho => ?_
    split at hx <;> cases hx
    exact queueAccess_counted hs ho
  | writeArrival p k =>
    refine arrival_counted hs (show execWriteArrival p k s = .next t from h) fun x o hx ho => ?_
    split at hx <;> cases hx
    exact queueAccess_counted hs ho
  | commandArrival p k =>
    refine arrival_counted hs (show execCommandArrival p k s = .next t from h) fun x o hx ho => ?_
    split at hx <;> cases hx
    exact queueCommand_counted hs ho
  | noticeAck p k =>
    refine arrival_counted hs (show execNoticeAck p k s = .next t from h) fun x o hx ho => ?_
    split at hx <;> cases hx
    exact takeAck_counted hs ho
  | hello p k =>
    refine arrival_counted hs (show execHello p k s = .next t from h) fun x o hx ho => ?_
    split at hx <;> cases hx
    exact takeHello_counted hs ho
  | linkUp p => exact execLinkUp_counted hs h
  | linkLoss p => exact execLinkLoss_counted hs h
  | packetSent p => exact execPacketSent_counted hs h
  | acquire =>
    refine takeCommand_counted hs (show execAcquire s = .next t from h) fun p tag x f w hx hw => ?_
    split at hx <;> cases hx
    exact acquire_counted hw ..
  | join =>
    refine takeCommand_counted hs (show execJoin s = .next t from h) fun p tag x f w hx hw => ?_
    split at hx <;> cases hx
    exact join_counted hw ..
  | renew =>
    refine takeCommand_counted hs (show execRenew s = .next t from h) fun p tag x f w hx hw => ?_
    split at hx <;> cases hx
    exact renew_counted hw ..
  | release =>
    refine takeCommand_counted hs (show execRelease s = .next t from h) fun p tag x f w hx hw => ?_
    split at hx <;> cases hx
    exact release_counted hw ..
  | convert =>
    refine takeCommand_counted hs (show execConvert s = .next t from h) fun p tag x f w hx hw => ?_
    split at hx <;> cases hx
    exact convert_counted hw ..
  | cancel =>
    refine takeCommand_counted hs (show execCancel s = .next t from h) fun p tag x f w hx hw => ?_
    split at hx <;> cases hx
    exact cancel_counted hw ..
  | lookup =>
    refine takeCommand_counted hs (show execLookup s = .next t from h) fun p tag x f w hx hw => ?_
    split at hx <;> cases hx
    exact hw.respond
  | malformedCommand =>
    refine takeCommand_counted hs (show execMalformedCommand s = .next t from h) fun p tag x f w hx hw => ?_
    split at hx <;> cases hx
    exact hw.respond
  | waitDeadlineExpiry p tag => exact execWaitDeadlineExpiry_counted hs h
  | holderExpiry n p => exact execHolderExpiry_counted hs h
  | noticeDeadline n => exact execNoticeDeadline_counted hs h
  | readTaking => exact execReadTaking_counted hs h
  | writeTaking => exact execWriteTaking_counted hs h
  | readCompletion slot poolError => exact execReadCompletion_counted hs h
  | writeCompletion slot => exact execWriteCompletion_counted hs h
  | zeroFillCompletion => exact execZeroFillCompletion_counted hs h
  | ackTimerExpiry p => exact execAckTimerExpiry_counted hs h
  | badFrame l => exact execBadFrame_counted hs h
  | badCommand l => exact execBadCommand_counted hs h
  | identify => exact report_counted hs (show execIdentify s = .next t from h)
  | status => exact report_counted hs (show execStatus s = .next t from h)
  | alertRead => exact report_counted hs (show execAlertRead s = .next t from h)
  | waitRead => exact report_counted hs (show execWaitRead s = .next t from h)
  | scrubRead => exact report_counted hs (show execScrubRead s = .next t from h)
  | alertClear causes =>
    exact service_counted hs (show execAlertClear causes s = .next t from h) (by split <;> exact hs)
  | alertMask mask => exact service_counted hs (show execAlertMask mask s = .next t from h) (by split <;> exact hs)
  | portStatus port => exact service_counted hs (show execPortStatus port s = .next t from h) (by split <;> exact hs)
  | refusalClear port =>
    exact service_counted hs (show execRefusalClear port s = .next t from h) (by split <;> exact hs)
  | portReset port => exact execPortReset_counted hs h
  | leaseRead index => exact service_counted hs (show execLeaseRead index s = .next t from h) (by split <;> exact hs)
  | leaseNext granule =>
    exact service_counted hs (show execLeaseNext granule s = .next t from h) (by split <;> exact hs)
  | forceRevoke hd grace => exact execForceRevoke_counted hs h
  | deviceReset => exact execDeviceReset_counted hs h
  | fieldRead x => exact service_counted hs (show execFieldRead x s = .next t from h) (by split <;> exact hs)
  | fieldWrite x value => exact execFieldWrite_counted hs h
  | profileSave slot => exact execProfileSave_counted hs h
  | profileLoad slot => exact execProfileLoad_counted hs h
  | bootSelect slot => exact execBootSelect_counted hs h
  | nvOperationComplete agrees => exact execNvOperationComplete_counted hs h
  | powerOnReset => exact execPowerOnReset_counted h
  | resetAssert => exact execResetAssert_counted h
  | resetRelease => exact execResetRelease_counted hs h
  | becomeReady => exact execBecomeReady_counted hs h
  | leaseClockTick => exact execLeaseClockTick_counted hs h

/-- Settles O57: the law says of each record that its drain count is that of its host slots (`State.counted_iff`), and
every event keeps that (`exec_counted`). -/
theorem stepKeepsDrainLaw : Obligations.StepKeepsDrainLaw := by
  intro s t hs h
  rw [← State.counted_iff] at hs ⊢
  exact step_keeps (P := State.Counted) (fun _ _ h => h) (fun _ _ _ h he => exec_counted h he) s t hs h

end Sys2Proof.Machine
end

section
/-! The outbound list (R141): what a packet produced for a port does, and the fences of ports that overflowed. -/

namespace Sys2Proof.Machine

open Sys2Proof.Safety

/-! ## A port that is to be fenced for an overflow -/

@[simp] theorem Work.overflow_ending (w : Work) (p : Port) : (w.overflow p).ending = w.ending := by
  unfold Work.overflow; split <;> rfl

@[simp] theorem Work.overflow_scanDue (w : Work) (p : Port) : (w.overflow p).scanDue = w.scanDue := by
  unfold Work.overflow; split <;> rfl

theorem Work.mem_overflow (w : Work) (p : Port) : p ∈ (w.overflow p).overflowed := by
  unfold Work.overflow
  split
  · assumption
  · exact List.mem_append_right _ List.mem_cons_self

/-! ## A packet produced for a port -/

/-- A packet for a full list is discarded, and overflows an ONLINE port alone. -/
theorem Work.send_of_full {w : Work} {p : Port} (h : ¬ Room w.st p 1) (k : OutPacket) :
    w.send p k = if (w.st.port p).state = .online then w.overflow p else w := if_neg h

theorem Work.setPort_setPort (w : Work) (p : Port) (r r' : PortRecord) :
    (w.onState (fun s => s.setPort p r)).onState (fun s => s.setPort p r') = w.onState (fun s => s.setPort p r') :=
  congrArg (fun t => (⟨t, w.overflowed, w.ending, w.scanDue⟩ : Work)) (w.st.setPort_setPort p r r')

/-- A packet for a list with room, at a port whose notification unit has just changed. -/
theorem Work.send_setUnit {w : Work} {p : Port} (hroom : Room w.st p 1) (u : NotificationUnit) (k : OutPacket) :
    (w.onState (fun s => s.setPort p { w.st.port p with unit := u })).send p k =
      w.onState (fun s =>
        s.setPort p { w.st.port p with outbound := (w.st.port p).outbound ++ [k], unit := u }) := by
  have hport : (w.onState (fun s => s.setPort p { w.st.port p with unit := u })).st.port p =
      { w.st.port p with unit := u } := by simp
  rw [Work.send_of_room _ p k (by rw [hport]; exact hroom), hport, Work.setPort_setPort]

/-! ## The fences of one event (R128, R141; log 6) -/

/-- The ports that overflowed and are still ONLINE are fenced in some order. -/
theorem Work.fenceOverflowed_order (w : Work) {due : List Port}
    (hdue : due = w.overflowed.filter (fun p => decide ((w.st.port p).state = .online))) :
    ∃ order : List Port, order.Perm due ∧
      w.fenceOverflowed =
        order.foldl (fun x p => x.fenceStart p .overflow none)
          { w with overflowed := [], st := { w.st with choices := w.st.choices + (due.length - 1) } } := by
  subst hdue
  exact ⟨_, anyOrder_perm _ _ _, rfl⟩

/-- One port that overflowed is fenced when it is still ONLINE. -/
theorem Work.fenceOverflowed_of_one {w : Work} {p : Port} (h : w.overflowed = [p]) :
    w.fenceOverflowed =
      if (w.st.port p).state = .online then ({ w with overflowed := [] } : Work).fenceStart p .overflow none
      else { w with overflowed := [] } := by
  by_cases ho : (w.st.port p).state = .online
  · obtain ⟨order, hperm, hfences⟩ := w.fenceOverflowed_order (due := [p]) (by simp [h, ho])
    rw [hfences, List.perm_singleton.1 hperm, if_pos ho]
    rfl
  · obtain ⟨order, hperm, hfences⟩ := w.fenceOverflowed_order (due := []) (by simp [h, ho])
    rw [hfences, hperm.eq_nil, if_neg ho]
    rfl

/-! ## The head of the list -/

/-- The head that has been sent leaves the list. -/
theorem exec_packetSent {s : State} {p : Port} {x : OutPacket} {rest : List OutPacket}
    (h : (s.port p).outbound = x :: rest) :
    exec (.packetSent p) s = .next (s.setPort p { s.port p with outbound := rest }) := by
  show execPacketSent p s = _
  unfold execPacketSent
  rw [h]

theorem State.nextOnLink_of_empty {s : State} {p : Port} (h : (s.port p).outbound = []) : s.nextOnLink p = none := by
  rw [State.nextOnLink, h]
  rfl

theorem State.nextOnLink_of_head {s : State} {p : Port} {x : OutPacket} {rest : List OutPacket}
    (h : (s.port p).outbound = x :: rest) : s.nextOnLink p = some (wireBytes x.encode) := by
  rw [State.nextOnLink, h]
  rfl

end Sys2Proof.Machine
end

section
/-! The bytes of the packets from the part (sections 12.2 and 12.2.1): for each kind the fields at their offsets. -/

namespace Sys2Proof.Machine

open Sys2Proof.Safety

/-! ## Header and body -/

/-- A packet on the link: its kind, its body length, and its body from offset 3 on. -/
theorem wireBytes_fields {k : RawPacket} {v : List Byte} (hv : v = wireBytes k) :
    v.length = 3 + k.body.length ∧ holdsAt v 0 1 k.kind.toNat ∧ holdsAt v 1 2 (v.length - 3) ∧ bytesAt v 3 k.body := by
  have hfields : wireBytes k = leBytes 1 k.kind.toNat ++ (leBytes 2 k.body.length ++ k.body) := by
    rw [wireBytes, leBytes_one, BitVec.ofNat_toNat, BitVec.setWidth_eq, List.singleton_append]
  have hlength : v.length = 3 + k.body.length := by
    rw [hv, hfields, List.length_append, List.length_append, length_leBytes, length_leBytes, ← Nat.add_assoc]
  have h := bytesAt_of_eq (hv.trans hfields)
  simp only [bytesAt_append, bytesAt_leBytes, length_leBytes, Nat.reduceAdd] at h
  obtain ⟨hkind, hbodyLength, hbody⟩ := h
  exact ⟨hlength, hkind, by rwa [hlength, Nat.add_sub_cancel_left], hbody⟩

/-- A field wider than its value ends in zeros. -/
theorem holdsAt_of_lt {l : List Byte} {o m n v : Nat} (h : holdsAt l o (m + n) v) (hv : v < 256 ^ m) :
    holdsAt l o m v ∧ holdsAt l (o + m) n 0 := by
  refine ⟨fun k hk => h k (by omega), fun k hk => ?_⟩
  have hzero : v / 256 ^ (m + k) = 0 :=
    Nat.div_eq_of_lt (hv.trans_le (Nat.pow_le_pow_right (by decide) (Nat.le_add_right m k)))
  rw [Nat.add_assoc, h (m + k) (by omega), hzero, Nat.zero_div]

/-! ## Codes -/

theorem RefusalReason.code_eq (r : RefusalReason) : r.code = refusalCode r := by cases r <;> rfl

theorem RevokeCause.code_eq (c : RevokeCause) : c.code = revokeCauseCode (some c) := causeCode_eq (some c)

theorem RevokeCause.code_lt (c : RevokeCause) : c.code < 256 ^ 1 := by cases c <;> decide

/-! ## The five kinds of packet -/

section

variable {v : List Byte}

theorem readDone_fields {tag : ReadTag} {status : ReadStatus} {data : List Byte}
    (hv : v = wireBytes (OutPacket.readDone tag status data).encode) :
    v.length = 5 + data.length ∧ holdsAt v 0 1 0x81 ∧ holdsAt v 3 1 tag.val ∧ holdsAt v 4 1 status.code ∧
      v.drop 5 = data := by
  obtain ⟨hlength, hkind, -, hbody⟩ := wireBytes_fields hv
  simp only [OutPacket.encode, List.append_assoc, bytesAt_append, bytesAt_leBytes, length_leBytes, Nat.reduceAdd] at hbody
  simp only [OutPacket.encode, List.append_assoc, List.length_append, length_leBytes, ← Nat.add_assoc,
    Nat.reduceAdd] at hlength
  obtain ⟨htag, hstatus, -⟩ := hbody
  exact ⟨hlength, hkind, htag, hstatus, by rw [hv]; rfl⟩

theorem writeRefused_fields {a : PoolAddress} {l : BitVec 16} {r : RefusalReason}
    (hv : v = wireBytes (OutPacket.writeRefused a l r).encode) :
    v.length = 11 ∧ holdsAt v 0 1 0x82 ∧ holdsAt v 3 5 a.toNat ∧ holdsAt v 8 2 l.toNat ∧
      holdsAt v 10 1 (refusalCode r) := by
  obtain ⟨hlength, hkind, -, hbody⟩ := wireBytes_fields hv
  simp only [OutPacket.encode, List.append_assoc, bytesAt_append, bytesAt_leBytes, length_leBytes, Nat.reduceAdd,
    RefusalReason.code_eq] at hbody
  exact ⟨hlength, hkind, hbody⟩

theorem response_fields {tag : CommandTag} {answer : Answer}
    (hv : v = wireBytes (OutPacket.response tag answer).encode) :
    v.length = 5 + answer.fields.length ∧ holdsAt v 0 1 0x83 ∧ holdsAt v 3 1 tag.val ∧ holdsAt v 4 1 answer.code ∧
      bytesAt v 5 answer.fields := by
  obtain ⟨hlength, hkind, -, hbody⟩ := wireBytes_fields hv
  simp only [OutPacket.encode, List.append_assoc, bytesAt_append, bytesAt_leBytes, length_leBytes, Nat.reduceAdd] at hbody
  simp only [OutPacket.encode, List.append_assoc, List.length_append, length_leBytes, ← Nat.add_assoc,
    Nat.reduceAdd] at hlength
  exact ⟨hlength, hkind, hbody⟩

@[simp] theorem NoticeEvent.length_detail (e : NoticeEvent) : e.detail.length = 5 := by cases e <;> rfl

theorem notice_fields {q : BitVec 16} {h : Handle} {e : NoticeEvent}
    (hv : v = wireBytes (OutPacket.notice q h e).encode) :
    v.length = 14 ∧ holdsAt v 0 1 0x84 ∧ holdsAt v 3 2 q.toNat ∧ holdsAt v 5 1 h.index.val ∧
      holdsAt v 6 2 h.generation.toNat ∧ holdsAt v 8 1 e.code ∧ bytesAt v 9 e.detail := by
  obtain ⟨hlength, hkind, -, hbody⟩ := wireBytes_fields hv
  simp only [OutPacket.encode, Handle.bytes_eq, List.append_assoc, bytesAt_append, bytesAt_leBytes, length_leBytes,
    Nat.reduceAdd] at hbody
  simp only [OutPacket.encode, Handle.bytes_eq, List.append_assoc, List.length_append, length_leBytes,
    NoticeEvent.length_detail, Nat.reduceAdd] at hlength
  exact ⟨hlength, hkind, hbody⟩

theorem welcome_fields {w : Welcome} (hv : v = wireBytes (OutPacket.welcome w).encode) :
    v.length = 20 ∧ holdsAt v 0 1 0x85 ∧ holdsAt v 3 1 w.epoch.toNat ∧ holdsAt v 4 1 w.port.val ∧
      holdsAt v 5 3 w.poolGranules ∧ holdsAt v 8 2 w.policy.reachBase ∧ holdsAt v 10 2 w.policy.reachLimit ∧
      holdsAt v 12 3 w.policy.granuleQuota ∧ holdsAt v 15 1 w.policy.leaseQuota ∧ holdsAt v 16 2 w.policy.maxTerm ∧
      holdsAt v 18 1 (boolCode w.policy.indefiniteOk) ∧ holdsAt v 19 1 w.policy.ackTimeout := by
  obtain ⟨hlength, hkind, -, hbody⟩ := wireBytes_fields hv
  simp only [OutPacket.encode, Welcome.bytes, List.append_assoc, bytesAt_append, bytesAt_leBytes, length_leBytes,
    Nat.reduceAdd] at hbody
  exact ⟨hlength, hkind, hbody⟩

/-! ## The result fields of a FOUND answer (section 12.2.1) -/

theorem FoundLease.length_bytes (f : FoundLease) : f.bytes.length = 13 + f.holders.length := by
  simp only [FoundLease.bytes, Handle.bytes_eq, List.length_append, length_leBytes,
    length_flatMap_of_size fun (p : Port) _ => length_leBytes 1 p.val, Nat.reduceAdd, Nat.one_mul]

theorem FoundLease.bytes_fields {f : FoundLease} (h : bytesAt v 5 f.bytes) :
    holdsAt v 5 1 f.handle.index.val ∧ holdsAt v 6 2 f.handle.generation.toNat ∧ holdsAt v 8 1 (kindCode f.kind) ∧
      holdsAt v 9 1 f.state.code ∧ holdsAt v 10 1 (boolCode f.written) ∧ holdsAt v 11 1 (indexCode f.standing) ∧
      holdsAt v 12 2 f.base ∧ holdsAt v 14 3 f.count ∧ holdsAt v 17 1 f.holders.length ∧
      ∀ k q, f.holders[k]? = some q → holdsAt v (18 + k) 1 q.val := by
  simp only [FoundLease.bytes, Handle.bytes_eq, List.append_assoc, bytesAt_append, bytesAt_leBytes, length_leBytes,
    Nat.reduceAdd] at h
  obtain ⟨hindex, hgeneration, hkind, hstate, hwritten, hstanding, hbase, hcount, hlength, hholders⟩ := h
  refine ⟨hindex, hgeneration, hkind, hstate, hwritten, hstanding, hbase, hcount, hlength, fun k q hq => ?_⟩
  have hplace := bytesAt_flatMap (fun p _ => length_leBytes 1 p.val) hholders hq
  rwa [bytesAt_leBytes, Nat.one_mul] at hplace

end

/-- Settles O12: the list by `Work.send_of_room` and `Work.send_of_full`, the fences by `Work.fenceOverflowed_order`, and
the bytes of each kind of packet by its `_fields` lemma. -/
theorem outboundListOutcome : Obligations.OutboundListOutcome := by
  refine ⟨fun w p x => ⟨Work.send_of_room w p x, fun hfull ho => ?_, fun hfull ho => ?_⟩,
    fun w due hdue => w.fenceOverflowed_order hdue, fun w p h => ⟨fun ho => ?_, fun ho => ?_⟩,
    fun s p x rest h => exec_packetSent h, fun s p h => State.nextOnLink_of_empty h,
    fun s p x rest h => ⟨_, State.nextOnLink_of_head h, (wireBytes_fields rfl).2.2.1, ?_⟩⟩
  · rw [Work.send_of_full hfull, if_pos ho]
    exact ⟨w.overflow_st p, w.mem_overflow p, w.overflow_ending p, w.overflow_scanDue p⟩
  · rw [Work.send_of_full hfull, if_neg ho]
  · rw [Work.fenceOverflowed_of_one h, if_pos ho]
  · rw [Work.fenceOverflowed_of_one h, if_neg ho]
  · generalize hv : wireBytes x.encode = v
    replace hv := hv.symm
    cases x with
    | readDone tag status data =>
      obtain ⟨hlength, hkind, htag, hstatus, hdata⟩ := readDone_fields hv
      refine ⟨hlength, hkind, htag, ?_, hdata⟩
      cases status with
      | refused r =>
        rw [ReadStatus.code, RefusalReason.code_eq] at hstatus
        exact hstatus
      | _ => exact hstatus
    | writeRefused a l r => exact writeRefused_fields hv
    | notice q h e =>
      obtain ⟨hlength, hkind, hsequence, hindex, hgeneration, hcode, hdetail⟩ := notice_fields hv
      refine ⟨hlength, hkind, hsequence, hindex, hgeneration, ?_⟩
      cases e with
      | damaged a => exact ⟨hcode, bytesAt_leBytes.1 hdetail⟩
      | revokeNotice d => exact ⟨hcode, holdsAt_of_lt (m := 4) (bytesAt_leBytes.1 hdetail) d.isLt⟩
      | expired => exact ⟨hcode, bytesAt_leBytes.1 hdetail⟩
      | revoked c =>
        obtain ⟨hcause, hzeros⟩ := holdsAt_of_lt (m := 1) (n := 4) (bytesAt_leBytes.1 hdetail) c.code_lt
        rw [RevokeCause.code_eq] at hcause
        exact ⟨hcode, hcause, hzeros⟩
    | welcome w => exact welcome_fields hv
    | response tag answer =>
      obtain ⟨hlength, hkind, htag, hcode, hfields⟩ := response_fields hv
      refine ⟨hkind, htag, ?_⟩
      cases answer with
      | granted h d =>
        rw [Answer.fields, Handle.bytes_eq, List.append_assoc] at hfields
        simp only [bytesAt_append, bytesAt_leBytes, length_leBytes, Nat.reduceAdd] at hfields
        obtain ⟨hindex, hgeneration, hdeadline⟩ := hfields
        exact ⟨hlength, hcode, hindex, hgeneration, bytesAt_deadlineBytes hdeadline⟩
      | joined d => exact ⟨hlength, hcode, bytesAt_deadlineBytes hfields⟩
      | renewed d => exact ⟨hlength, hcode, bytesAt_deadlineBytes hfields⟩
      | found f =>
        obtain ⟨hindex, hgeneration, hleaseKind, hstate, hwritten, hstanding, hrest⟩ := FoundLease.bytes_fields hfields
        rw [Answer.fields, FoundLease.length_bytes, ← Nat.add_assoc] at hlength
        refine ⟨hlength, hcode, hindex, hgeneration, ?_, ?_, hwritten, ?_, hrest⟩
        · rcases hk : f.kind with _ | _ | _ | _ <;> rw [hk] at hleaseKind <;> exact hleaseKind
        · cases hs : f.state <;> rw [hs] at hstate <;> exact hstate
        · rcases hn : f.standing with _ | n <;> rw [hn] at hstanding <;> exact hstanding
      | _ => exact ⟨hlength, hcode⟩

end Sys2Proof.Machine
end

section
/-! The notification unit (Chapter 8): an event raised for a port, a delivery, a NOTICE_ACK and the ack timer. -/

namespace Sys2Proof.Machine

open Sys2Proof.Safety

/-! ## Deliveries (R130) -/

/-- The unit after a delivery of the entry with the sequence. -/
def State.deliveredUnit (s : State) (p : Port) (n : BitVec 16) (e : PendingEntry) (rest : List PendingEntry) :
    NotificationUnit :=
  { entries := rest, inFlight := some ⟨n, e.handle, e.event, 0⟩, sequence := n,
    ackTimer := some (s.clock + BitVec.ofNat 32 (s.policy p).ackTimeout) }

/-- A delivery with no pending entry changes nothing. -/
theorem Work.deliver_of_none {w : Work} {p : Port} (h : (w.st.port p).unit.entries = []) : w.deliver p = w := by
  rcases w.deliver_cases p with ⟨-, hdeliver⟩ | ⟨e, rest, he, -⟩
  · exact hdeliver
  · rw [h] at he
    cases he

/-- The oldest pending entry goes in flight, and its NOTICE is produced. -/
theorem Work.deliver_of_entry {w : Work} {p : Port} {e : PendingEntry} {rest : List PendingEntry} {n : BitVec 16}
    (he : (w.st.port p).unit.entries = e :: rest) (hn : n = nextSequence (w.st.port p).unit.sequence) :
    w.deliver p =
      (w.onState (fun s => s.setPort p { w.st.port p with unit := w.st.deliveredUnit p n e rest })).send p
        (.notice n e.handle e.event) := by
  subst hn
  rcases w.deliver_cases p with ⟨hnone, -⟩ | ⟨x, l, hx, hdeliver⟩
  · rw [he] at hnone
    cases hnone
  · obtain ⟨rfl, rfl⟩ := List.cons.inj (he.symm.trans hx)
    exact hdeliver

/-- A delivery with room in the list, at a port whose notification unit has just changed. -/
theorem Work.deliver_setUnit {w : Work} {p : Port} {u : NotificationUnit} {e : PendingEntry} {rest : List PendingEntry}
    {n : BitVec 16} (he : u.entries = e :: rest) (hn : n = nextSequence u.sequence) (hroom : Room w.st p 1) :
    (w.onState (fun s => s.setPort p { w.st.port p with unit := u })).deliver p =
      w.onState (fun s =>
        s.setPort p
          { w.st.port p with
            outbound := (w.st.port p).outbound ++ [.notice n e.handle e.event]
            unit := w.st.deliveredUnit p n e rest }) := by
  have hport : (w.onState (fun s => s.setPort p { w.st.port p with unit := u })).st.port p =
      { w.st.port p with unit := u } := by simp
  rw [Work.deliver_of_entry (n := n) (by rw [hport]; exact he) (by rw [hport]; exact hn), hport, Work.setPort_setPort]
  exact Work.send_setUnit hroom (w.st.deliveredUnit p n e rest) _

/-! ## Events (R127, R128) -/

/-- The pending entry of a handle is replaced in its place when the event's rank is equal or above; no other changes. -/
theorem replaceEntry_of_only {h : Handle} {e : NoticeEvent} {before after : List PendingEntry} {x : PendingEntry}
    (hx : x.handle = h) (hothers : ∀ y ∈ before ++ after, y.handle ≠ h) :
    replaceEntry h e (before ++ x :: after) = before ++ (if x.event.rank ≤ e.rank then ⟨h, e⟩ else x) :: after := by
  have hkept : ∀ l : List PendingEntry, (∀ y ∈ l, y.handle ≠ h) → replaceEntry h e l = l := fun l hl =>
    (List.map_congr_left fun y hy => if_neg fun hyh => hl y hy hyh.1).trans l.map_id
  have hbefore := hkept before fun y hy => hothers y (List.mem_append_left after hy)
  have hafter := hkept after fun y hy => hothers y (List.mem_append_right before hy)
  unfold replaceEntry at hbefore hafter ⊢
  rw [List.map_append, List.map_cons, hbefore, hafter]
  exact congrArg (fun y => before ++ y :: after) (if_congr (and_iff_right hx) rfl rfl)

section

variable {w : Work} {p : Port} {h : Handle}

theorem Work.raise_of_not_online (ho : (w.st.port p).state ≠ .online) (e : NoticeEvent) : w.raise p h e = w :=
  if_pos ho

variable (ho : (w.st.port p).state = .online)

include ho

/-- An event whose handle is pending goes to that entry. -/
theorem Work.raise_of_pending (hpending : ∃ x ∈ (w.st.port p).unit.entries, x.handle = h) (e : NoticeEvent) :
    w.raise p h e =
      w.onState (fun s =>
        s.setPort p
          { w.st.port p with
            unit := { (w.st.port p).unit with entries := replaceEntry h e (w.st.port p).unit.entries } }) := by
  unfold Work.raise
  rw [if_neg (by simpa using ho), if_pos (by simpa using hpending)]

variable (hnew : ∀ y ∈ (w.st.port p).unit.entries, y.handle ≠ h)

include hnew

/-- Any other event joins the end of a set with room, and is delivered when nothing is in flight. -/
theorem Work.raise_of_new (hlen : (w.st.port p).unit.entries.length < 64) (e : NoticeEvent) {w' : Work}
    (hw' : w' = w.onState (fun s =>
      s.setPort p
        { w.st.port p with
          unit := { (w.st.port p).unit with entries := (w.st.port p).unit.entries ++ [⟨h, e⟩] } })) :
    w.raise p h e = if (w.st.port p).unit.inFlight.isNone then w'.deliver p else w' := by
  subst hw'
  unfold Work.raise
  rw [if_neg (by simpa using ho), if_neg (by simpa using hnew)]
  exact if_pos hlen

/-- At a full set it is discarded and overflows the port. -/
theorem Work.raise_of_full (hlen : 64 ≤ (w.st.port p).unit.entries.length) (e : NoticeEvent) :
    w.raise p h e = w.overflow p := by
  unfold Work.raise
  rw [if_neg (by simpa using ho), if_neg (by simpa using hnew)]
  exact if_neg (not_lt.2 hlen)

end

/-- Settles O31: each case of an event by its `Work.raise_of_` lemma, with the delivery by `Work.deliver_setUnit`. -/
theorem notificationEvent : Obligations.NotificationEvent := by
  refine ⟨fun a d c => ⟨rfl, rfl, rfl, rfl⟩, fun w p h e => ⟨fun ho => Work.raise_of_not_online ho e,
    fun before x after ho hentries hx hothers => ?_, fun f ho hnew hlen hflight => ?_,
    fun n ho hentries hflight hn hroom => ?_, fun ho hnew hlen => ?_⟩⟩
  · rw [Work.raise_of_pending ho ⟨x, by simp [hentries], hx⟩, hentries, replaceEntry_of_only hx hothers]
    rfl
  · rw [Work.raise_of_new ho hnew hlen e rfl, hflight]
    rfl
  · rw [Work.raise_of_new ho (by simp [hentries]) (by simp [hentries]) e rfl, if_pos (by rw [hflight]; rfl), hentries]
    exact Work.deliver_setUnit (u := { (w.st.port p).unit with entries := [⟨h, e⟩] }) rfl hn hroom
  · rw [Work.raise_of_full ho hnew hlen]
    exact ⟨w.overflow_st p, w.mem_overflow p⟩

/-! ## Acknowledgements (R131) -/

/-- A NOTICE_ACK with the sequence of nothing in flight changes nothing. -/
theorem takeAck_of_other {s : State} {p : Port} {q : BitVec 16} (ho : (s.port p).state = .online)
    (h : ∀ f, (s.port p).unit.inFlight = some f → f.sequence ≠ q) : takeAck p q s = .next s := by
  unfold takeAck
  rw [ho]
  refine if_neg fun hany => ?_
  obtain ⟨f, hf, hq⟩ := (Option.any_eq_true _ _).1 hany
  exact h f hf (of_decide_eq_true hq)

/-- One with the sequence in flight is an acknowledgement. -/
theorem takeAck_of_match {s : State} {p : Port} {f : InFlight} (ho : (s.port p).state = .online)
    (h : (s.port p).unit.inFlight = some f) : takeAck p f.sequence s = (acknowledge p (.start s)).done := by
  unfold takeAck
  rw [ho]
  exact if_pos (by simp [h])

/-- Settles O9: the packet is compared by `takeAck_of_other` or `takeAck_of_match`, and an acknowledgement delivers the
oldest pending entry by `Work.deliver_setUnit`. -/
theorem noticeAckOutcome : Obligations.NoticeAckOutcome := by
  intro s p k q hup hr hk ho
  rw [exec_noticeAck hup hr hk]
  refine ⟨takeAck_of_other ho, ?_, ?_⟩
  · rintro f hflight rfl hentries
    rw [takeAck_of_match ho hflight, acknowledge, Work.deliver_of_none (by simpa using hentries)]
    rfl
  · rintro f e rest n hflight rfl hentries hn hroom
    rw [takeAck_of_match ho hflight, acknowledge]
    exact congrArg Work.done (Work.deliver_setUnit (w := .start s)
      (u := { (s.port p).unit with inFlight := none, ackTimer := none }) hentries hn hroom)

/-! ## The ack timer (R132, R133) -/

/-- An ack timer that is reached sends its notification again, or fences the port after three redeliveries. -/
theorem exec_ackTimerExpiry {s : State} {p : Port} {d : ClockValue} {f : InFlight}
    (hd : (s.port p).unit.ackTimer = some d) (hf : (s.port p).unit.inFlight = some f)
    (hreached : (s.clock - d).toNat < 2 ^ 31) :
    exec (.ackTimerExpiry p) s =
      if f.redeliveries < 3 then (redeliver p f (.start s)).done
      else ((Work.start s).fenceStart p .unresponsive none).done := by
  have hr : s.reached d = true := decide_eq_true hreached
  show execAckTimerExpiry p s = _
  unfold execAckTimerExpiry
  rw [hd, hf]
  exact if_pos hr

/-- Settles O30: below three redeliveries the NOTICE finds room by `Work.send_setUnit`, else the fence starts. -/
theorem ackTimerOutcome : Obligations.AckTimerOutcome := by
  intro s p d f hd hf hreached
  rw [exec_ackTimerExpiry hd hf hreached]
  refine ⟨fun hcount hroom => ?_, fun hcount => if_neg (not_lt.2 hcount)⟩
  rw [if_pos hcount, redeliver]
  exact congrArg Work.done (Work.send_setUnit (w := .start s) hroom _ _)

end Sys2Proof.Machine
end

section
/-! The port controllers (Chapter 9): a HELLO, the link events, the end of a fence, and PORT_RESET (R149, R172). -/

namespace Sys2Proof.Machine

open Sys2Proof.Safety

/-! ## The entry to ONLINE (R144) -/

/-- With room for its WELCOME, the entry to ONLINE changes the port's record alone. -/
theorem Work.enterOnline_of_room {w : Work} {p : Port} (hroom : Room w.st p 1) (host : HostId) :
    w.enterOnline p host =
      w.onState (fun s =>
        s.setPort p
          { (w.st.port p).goOnline host with
            outbound :=
              (w.st.port p).outbound ++
                [.welcome
                  { epoch := (w.st.port p).epoch + 1, port := p, poolGranules := w.st.geometry.poolGranules,
                    policy := w.st.policy p }] }) := by
  have hport : (w.onState (fun s => s.setPort p ((s.port p).goOnline host))).st.port p =
      (w.st.port p).goOnline host := by simp
  have hwelcome : (w.onState (fun s => s.setPort p ((s.port p).goOnline host))).st.welcome p =
      { epoch := (w.st.port p).epoch + 1, port := p, poolGranules := w.st.geometry.poolGranules,
        policy := w.st.policy p } := by
    rw [State.welcome, hport]
    rfl
  rw [Work.enterOnline, hwelcome, Work.send_of_room _ p _ (by rw [hport]; exact hroom), hport]
  exact Work.setPort_setPort w p _ _

/-! ## A HELLO (R144, R145, R147) -/

theorem exec_hello {s : State} {p : Port} {k : RawPacket} {host : HostId} (hup : (s.port p).lineUp = true)
    (hr : s.phase = .ready) (hk : decodePacket k = some (.hello host)) :
    exec (.hello p k) s = takeHello p host s := by
  show execHello p k s = _
  unfold execHello
  exact arrival_taken hup hr hk rfl

/-- Settles O10: the port's state directs the HELLO, and `Work.enterOnline_of_room` leaves nothing due. -/
theorem helloOutcome : Obligations.HelloOutcome := by
  intro s p k host hup hr hk
  rw [exec_hello hup hr hk, takeHello]
  refine ⟨fun hs hroom => ?_, fun hs => ?_, fun hs => ?_⟩
  · simp only [hs, Work.enterOnline_of_room (w := .start s) hroom]
    exact congrArg _ (Work.settle_quiet _)
  · simp only [hs]
  · simp only [hs, Work.done]

/-! ## Fence ends (R148) -/

section

variable {w : Work} {p : Port} (hs : (w.st.port p).state = .fencing)

include hs

theorem Work.fenceEnd_down (hflag : (w.st.port p).linkFlag = false) :
    w.fenceEnd p = w.onState (fun s => s.setPort p { w.st.port p with state := .down }) := by
  unfold Work.fenceEnd
  rw [if_neg (not_not.2 hs), if_pos hflag]

variable (hflag : (w.st.port p).linkFlag = true)

include hflag

theorem Work.fenceEnd_linked (hpending : (w.st.port p).helloPending = none) :
    w.fenceEnd p = w.onState (fun s => s.setPort p { w.st.port p with state := .linked }) := by
  unfold Work.fenceEnd
  rw [if_neg (not_not.2 hs), if_neg (by simp [hflag])]
  simp only [hpending]

theorem Work.fenceEnd_online {host : HostId} (hpending : (w.st.port p).helloPending = some host) :
    w.fenceEnd p = w.enterOnline p host := by
  unfold Work.fenceEnd
  rw [if_neg (not_not.2 hs), if_neg (by simp [hflag]), hpending]

end

/-- Settles O40: link flag and hello-pending choose among the `Work.fenceEnd_` lemmas, and the WELCOME finds room. -/
theorem fenceEndOutcome : Obligations.FenceEndOutcome := by
  intro w p hs
  refine ⟨Work.fenceEnd_down hs, Work.fenceEnd_linked hs, fun host hflag hpending hroom => ?_⟩
  rw [Work.fenceEnd_online hs hflag hpending]
  exact Work.enterOnline_of_room hroom host

/-! ## Link events (R142, R143, R145, R147, R152, R153) -/

/-- Settles O11: `execLinkUp` and `execLinkLoss` go on from the link as it was, and the phase and the port's state choose
the branch. -/
theorem linkEventOutcome : Obligations.LinkEventOutcome := by
  refine ⟨fun s p hdown => ?_, fun s p hup => ?_⟩
  · show (_ → execLinkUp p s = _) ∧ (_ → _ → execLinkUp p s = _) ∧ (_ → _ → execLinkUp p s = _)
    rw [execLinkUp, if_neg (by simp [hdown])]
    refine ⟨fun hr => if_pos hr, fun hr hs => ?_, fun hr hs => ?_⟩
    · simp only [if_neg (not_not.2 hr), hs]
    · simp only [if_neg (not_not.2 hr), hs]
  · show (_ → execLinkLoss p s = _) ∧ (_ → _ → execLinkLoss p s = _) ∧ (_ → _ → execLinkLoss p s = _) ∧
      (_ → _ → execLinkLoss p s = _)
    rw [execLinkLoss, if_neg (by simp [hup])]
    refine ⟨fun hr => if_pos hr, fun hr hs => ?_, fun hr hs => ?_, fun hr hs => ?_⟩
    · simp only [if_neg (not_not.2 hr), hs]
    · simp only [if_neg (not_not.2 hr), hs]
    · simp only [if_neg (not_not.2 hr), hs, Work.done]

/-! ## PORT_RESET (R149) -/

/-- A PORT_RESET of a port in range is answered OK, and fences the port when it is ONLINE. -/
theorem execPortReset_port {s : State} {b : Byte} {p : Port} (hr : s.phase = .ready) (hb : b.toNat = p.val) :
    execPortReset b s =
      .next ((if (s.port p).state = .online then (Work.start s).fenceStart p .reset none else .start s).onState
        (fun t => t.putResponse 0x08 .ok [])).settle := by
  refine (service_ready hr).trans ?_
  rw [portOfByte_eq_some hb]
  rfl

/-- Settles O44: `execPortReset_port` with the port's state, and a port out of range is a `service_reading`. -/
theorem portResetOutcome : Obligations.PortResetOutcome := by
  intro s b hr
  show (∀ p, _ → _ → execPortReset b s = _) ∧ (∀ p, _ → _ → execPortReset b s = _) ∧ (_ → execPortReset b s = _)
  refine ⟨fun p hb hs => ?_, fun p hb hs => ?_, fun hb => service_reading hr ?_⟩
  · rw [execPortReset_port hr hb, if_pos hs]
  · rw [execPortReset_port hr hb, if_neg hs]
    exact congrArg _ (Work.settle_quiet _)
  · rw [portOfByte_eq_none hb]

end Sys2Proof.Machine
end

section
/-! The fields of a profile by their selectors (R154, R174, section 12.3), and what a write of one leaves of the
others. -/

namespace Sys2Proof.Machine

open Sys2Proof.Safety

/-! ## Selectors (section 12.3) -/

theorem portOfByte_eq_none_iff {b : Byte} : portOfByte b = none ↔ 3 < b.toNat := by
  simp only [portOfByte, dite_eq_right_iff, reduceCtorEq, imp_false, not_lt, Nat.succ_le_iff]

theorem entryOfByte_eq_none_iff {b : Byte} : entryOfByte b = none ↔ 15 < b.toNat := by
  simp only [entryOfByte, dite_eq_right_iff, reduceCtorEq, imp_false, not_lt, Nat.succ_le_iff]

theorem entryOfByte_eq_some {b : Byte} {n : EntryNumber} (h : b.toNat = n.val) : entryOfByte b = some n := by
  unfold entryOfByte
  rw [dif_pos (by omega)]
  exact congrArg some (Fin.ext h)

theorem bind_map_eq_none_iff {α β γ : Type} {a : Option α} {b : Option β} {f : α → β → γ} :
    a.bind (fun x => b.map (f x)) = none ↔ a = none ∨ b = none := by
  cases a <;> simp

/-- A selector names no field when its code is none of the sixteen, or a byte that the field takes is too large. -/
theorem ProfileField.ofSelector_eq_none_iff (x : Selector) : ProfileField.ofSelector x = none ↔
    x.code.toNat = 0 ∨ 0x10 < x.code.toNat ∨ (0x04 ≤ x.code.toNat ∧ x.code.toNat ≤ 0x0A ∧ 3 < x.port.toNat) ∨
      (0x0B ≤ x.code.toNat ∧ 15 < x.entry.toNat) ∨ (x.code.toNat = 0x0F ∧ 3 < x.port.toNat) := by
  unfold ProfileField.ofSelector
  split
  all_goals
    simp only [imp_false, Option.map_eq_none_iff, bind_map_eq_none_iff, portOfByte_eq_none_iff,
      entryOfByte_eq_none_iff, reduceCtorEq, false_iff, true_iff] at *
    omega

/-! ## Codes of values (section 12.1) -/

theorem within_eq_none_iff {low high v : Nat} : within low high v = none ↔ ¬ (low ≤ v ∧ v ≤ high) := by
  simp [within]

theorem within_value {low high v n : Nat} (h : within low high v = some n) : n = v := by
  unfold within at h
  split_ifs at h
  exact (Option.some.inj h).symm

theorem boolOfCode_eq_none_iff {v : Nat} : boolOfCode v = none ↔ ¬ v ≤ 1 := by
  unfold boolOfCode
  split <;> simp only [imp_false, reduceCtorEq, false_iff, true_iff] at * <;> omega

theorem boolCode_of_code {v : Nat} {b : Bool} (h : boolOfCode v = some b) : boolCode b = v := by
  unfold boolOfCode at h
  split at h <;> cases h <;> rfl

theorem standingKindOfCode_eq_none_iff {v : Nat} : standingKindOfCode v = none ↔ ¬ (v = 2 ∨ v = 3) := by
  unfold standingKindOfCode
  split
  · simp
  · simp
  · next h2 h3 => exact iff_of_true rfl fun h => h.elim h2 h3

theorem StandingKind.code_of_code {v : Nat} {k : StandingKind} (h : standingKindOfCode v = some k) : k.code = v := by
  unfold standingKindOfCode at h
  split at h <;> cases h <;> rfl

theorem entryRightOfCode_eq_none_iff {v : Nat} : entryRightOfCode v = none ↔ ¬ v ≤ 2 := by
  unfold entryRightOfCode
  split <;> simp only [imp_false, reduceCtorEq, false_iff, true_iff] at * <;> omega

theorem EntryRight.code_of_code {v : Nat} {r : EntryRight} (h : entryRightOfCode v = some r) : r.code = v := by
  unfold entryRightOfCode at h
  split at h <;> cases h <;> rfl

/-! ## A field written (R174) -/

@[simp] theorem Profile.policy_withPolicy (f : Profile) (p : Port) (q : PortPolicy) (r : Port) :
    (f.withPolicy p q).ports.get r = if p = r then q else f.ports.get r := vector_get_set _ _ _ _

@[simp] theorem Profile.entry_withEntry (f : Profile) (n : EntryNumber) (e : StandingEntry) (m : EntryNumber) :
    (f.withEntry n e).standing.get m = if n = m then e else f.standing.get m := vector_get_set _ _ _ _

/-- The field written reads as the value: its code is that of what the value names. -/
theorem Profile.writeField_same {f q : Profile} {x : ProfileField} {v : Nat} (h : f.writeField x v = some q) :
    q.fieldValue x = v := by
  cases x
  all_goals
    simp only [Profile.writeField, Option.map_eq_some_iff] at h
    obtain ⟨n, hv, rfl⟩ := h
    simp only [Profile.fieldValue, Profile.policy_withPolicy, Profile.entry_withEntry, vector_get_set, if_true]
  case poolGranules | reachBase | reachLimit | granuleQuota | leaseQuota | maxTerm | ackTimeout | entryBase
    | entryCount => exact within_value hv
  case initScrub | scrubOnRetire | indefiniteOk | entryUsed | entryScrub => exact boolCode_of_code hv
  case entryKind => exact StandingKind.code_of_code hv
  case entryRight => exact EntryRight.code_of_code hv

/-- Every other field keeps its value: it is another component of the same policy or entry, or belongs elsewhere. -/
theorem Profile.writeField_other {f q : Profile} {x y : ProfileField} {v : Nat} (h : f.writeField x v = some q)
    (hy : y ≠ x) : q.fieldValue y = f.fieldValue y := by
  cases x
  all_goals
    simp only [Profile.writeField, Option.map_eq_some_iff] at h
    obtain ⟨n, -, rfl⟩ := h
  case poolGranules | initScrub | scrubOnRetire => cases y <;> trivial
  case reachBase | reachLimit | granuleQuota | leaseQuota | maxTerm | indefiniteOk | ackTimeout =>
    cases y
    case reachBase | reachLimit | granuleQuota | leaseQuota | maxTerm | indefiniteOk | ackTimeout =>
      simp only [Profile.fieldValue, Profile.policy_withPolicy]
      split_ifs with hp
      · subst hp; trivial
      · rfl
    all_goals rfl
  case entryUsed | entryBase | entryCount | entryKind | entryScrub =>
    cases y
    case entryUsed | entryBase | entryCount | entryKind | entryRight | entryScrub =>
      simp only [Profile.fieldValue, Profile.entry_withEntry]
      split_ifs with he
      · subst he; trivial
      · rfl
    all_goals rfl
  case entryRight e p =>
    cases y
    case entryUsed | entryBase | entryCount | entryKind | entryScrub =>
      simp only [Profile.fieldValue, Profile.entry_withEntry]
      split_ifs with he
      · subst he; rfl
      · rfl
    case entryRight d r =>
      have hd : e = d → p ≠ r := fun he hp => hy (by rw [he, hp])
      simp only [Profile.fieldValue, Profile.entry_withEntry]
      split_ifs with he
      · rw [vector_get_set, if_neg (hd he), he]
      · rfl
    all_goals rfl

/-- Settles O47: the selector's code and bytes name the field, whose value is a component of the profile; a write by
`Profile.writeField_same` and `Profile.writeField_other`, its range by the readers of values and codes. -/
theorem fieldWriteReadsBack : Obligations.FieldWriteReadsBack := by
  refine ⟨ProfileField.ofSelector_eq_none_iff, fun f x p n y v h => ?_, fun _ _ => rfl,
    fun f q x y v h => ?_, fun f x v => ?_⟩
  · simp only [List.mem_cons, Prod.mk.injEq, List.not_mem_nil, or_false] at h
    rcases h with h | ⟨hp, h⟩ | ⟨he, h⟩ | ⟨he, hp, h⟩
    · rcases h with ⟨hx, rfl, rfl⟩ | ⟨hx, rfl, rfl⟩ | ⟨hx, rfl, rfl⟩ <;>
        exact ⟨by simp only [ProfileField.ofSelector, hx], rfl⟩
    · rcases h with ⟨hx, rfl, rfl⟩ | ⟨hx, rfl, rfl⟩ | ⟨hx, rfl, rfl⟩ | ⟨hx, rfl, rfl⟩ | ⟨hx, rfl, rfl⟩ |
          ⟨hx, rfl, rfl⟩ | ⟨hx, rfl, rfl⟩ <;>
        exact ⟨by simp only [ProfileField.ofSelector, hx, portOfByte_eq_some hp, Option.map_some], rfl⟩
    · rcases h with ⟨hx, rfl, rfl⟩ | ⟨hx, rfl, rfl⟩ | ⟨hx, rfl, rfl⟩ | ⟨hx, rfl, rfl⟩ | ⟨hx, rfl, rfl⟩ <;>
        exact ⟨by simp only [ProfileField.ofSelector, hx, entryOfByte_eq_some he, Option.map_some], rfl⟩
    · obtain ⟨hx, rfl, rfl⟩ := h
      exact ⟨by simp only [ProfileField.ofSelector, hx, entryOfByte_eq_some he, portOfByte_eq_some hp, Option.map_some,
        Option.bind_some], rfl⟩
  · split_ifs with hy
    · exact hy ▸ Profile.writeField_same h
    · exact Profile.writeField_other h hy
  · cases x
    all_goals
      simp only [Profile.writeField, Option.map_eq_none_iff, within_eq_none_iff, boolOfCode_eq_none_iff,
        standingKindOfCode_eq_none_iff, entryRightOfCode_eq_none_iff, Nat.zero_le, true_and]

end Sys2Proof.Machine
end

section
/-! Transfers whose frame or code is wrong, and transfers before readiness (R160, R166). -/

namespace Sys2Proof.Machine

open Sys2Proof.Safety

/-! ## Before readiness (R160) -/

/-- The steps that a request frame names (section 12.3). -/
def isServiceRequest : Instr → Bool
  | .identify | .status | .alertRead | .alertClear _ | .alertMask _ | .portStatus _ | .refusalClear _ | .portReset _
  | .leaseRead _ | .leaseNext _ | .forceRevoke _ _ | .waitRead | .scrubRead | .deviceReset | .fieldRead _
  | .fieldWrite _ _ | .profileSave _ | .profileLoad _ | .bootSelect _ => true
  | _ => false

/-- Whatever a frame is read as is one of them. -/
theorem isServiceRequest_of_readRequest {code : Byte} {operands : List Byte} {i : Instr}
    (h : readRequest code operands = .request i) : isServiceRequest i = true := by
  unfold readRequest at h
  split at h
  case h_20 => cases h
  all_goals
    split at h
    · cases h
      rfl
    · cases h

theorem service_not_ready {s : State} (hr : s.phase ≠ .ready) (code : Byte)
    (act : Work → Work × ServiceResult × List Byte) : service code act s = .next s := if_pos hr

theorem exec_request_not_ready {s : State} (hr : s.phase ≠ .ready) {i : Instr} (hi : isServiceRequest i = true) :
    exec i s = .next s := by
  cases i
  case identify | status | alertRead | alertClear | alertMask | portStatus | refusalClear | portReset | leaseRead
    | leaseNext | forceRevoke | waitRead | scrubRead | fieldRead | fieldWrite | profileSave | profileLoad
    | bootSelect | deviceReset => exact if_pos hr
  all_goals cases hi

/-- A transfer is of the row for a bad frame, of that for a bad command, or a request of its own. -/
theorem decodeTransfer_cases {t : List Byte} {i : Instr} (h : decodeTransfer t = some i) :
    i = .badFrame t ∨ i = .badCommand t ∨ isServiceRequest i = true := by
  have h' := h
  unfold decodeTransfer at h'
  split_ifs at h'
  · exact .inl (Option.some.inj h').symm
  · exact .inl (Option.some.inj h').symm
  · split at h'
    · exact .inr (.inl (Option.some.inj h').symm)
    · exact .inl (Option.some.inj h').symm
    · next j hj => exact .inr (.inr (Option.some.inj h' ▸ isServiceRequest_of_readRequest hj))

/-! ## BAD_FRAME and BAD_COMMAND (R166) -/

theorem exec_badFrame {s : State} {t : List Byte} (h : decodeTransfer t = some (.badFrame t)) :
    exec (.badFrame t) s = service (t.headD 0) (fun w => (w, .badFrame, [])) s := if_pos h

theorem exec_badCommand {s : State} {t : List Byte} (h : decodeTransfer t = some (.badCommand t)) :
    exec (.badCommand t) s = service (t.headD 0) (fun w => (w, .badCommand, [])) s := if_pos h

/-- Settles O42: either answer is a `service_reading`, and before readiness each kind of transfer of
`decodeTransfer_cases` leaves the state. -/
theorem badTransfers : Obligations.BadTransfers := by
  refine fun s t => ⟨fun hr ht => (exec_badFrame ht).trans (service_reading hr rfl),
    fun hr ht => (exec_badCommand ht).trans (service_reading hr rfl), fun i hr ht => ?_⟩
  rcases decodeTransfer_cases ht with rfl | rfl | hi
  · exact (exec_badFrame ht).trans (service_not_ready hr _ _)
  · exact (exec_badCommand ht).trans (service_not_ready hr _ _)
  · exact exec_request_not_ready hr hi

end Sys2Proof.Machine
end

section
/-! The profile store (Chapter 10): validity of slots and boot cell (R154 to R156), the requests on it (R162, R165) and
the completion of an NV operation (R163). -/

namespace Sys2Proof.Machine

open Sys2Proof.Safety

/-! ## Slots and boot cell (R154, R155) -/

theorem ProfileSlot.valid_iff (x : ProfileSlot) : x.valid = true ↔
    x.validMark = true ∧ x.check = crc32 x.image.bytes ∧ x.image.inRange = true := by
  simp only [ProfileSlot.valid, Bool.and_eq_true, decide_eq_true_eq, and_assoc]
  rfl

/-- A user slot gives its image when it is valid. -/
theorem State.validImage_user (s : State) (k : Fin 3) :
    s.validImage ⟨k.val + 1, by omega⟩ = if s.userSlots[k].valid = true then some s.userSlots[k].image else none :=
  dif_neg k.val.succ_ne_zero

theorem BootCell.named_iff (c : BootCell) (n : Fin 4) :
    c.named = some n ↔ c.number.toNat = n.val ∧ c.complement = ~~~c.number := by
  unfold BootCell.named
  split_ifs with hlt hc
  · simp only [Option.some.injEq, Fin.ext_iff, hc, and_true]
  · simp only [hc, and_false]
  · exact ⟨nofun, fun h => absurd n.isLt (h.1 ▸ hlt)⟩

/-- A boot cell that was made invalid names no slot: no byte is its own complement. -/
theorem BootCell.named_spoiled (c : BootCell) : c.spoiled.named = none := by
  refine Option.eq_none_iff_forall_ne_some.2 fun n hn => ?_
  have hbit := congrArg (BitVec.getLsbD · 0) ((c.spoiled.named_iff n).1 hn).2
  simp [BootCell.spoiled] at hbit

/-! ## Requests (R162, R165) -/

theorem slotOfByte_eq_some {b : Byte} {n : Fin 4} (h : b.toNat = n.val) : slotOfByte b = some n := by
  unfold slotOfByte
  rw [dif_pos (by omega)]
  exact congrArg some (Fin.ext h)

theorem slotOfByte_eq_none {b : Byte} (h : 3 < b.toNat) : slotOfByte b = none := dif_neg (by omega)

section

variable {s : State} (hr : s.phase = .ready) {b : Byte}

include hr

theorem profileStore_badValue (hb : 3 < b.toNat) :
    execProfileSave b s = .next (s.putResponse 0x11 .badValue []) ∧
      execProfileLoad b s = .next (s.putResponse 0x12 .badValue []) ∧
      execBootSelect b s = .next (s.putResponse 0x13 .badValue []) := by
  refine ⟨service_reading hr ?_, service_reading hr ?_, service_reading hr ?_⟩ <;> rw [slotOfByte_eq_none hb]

theorem execProfileSave_factory : execProfileSave 0 s = .next (s.putResponse 0x11 .refusedFactory []) :=
  service_reading hr rfl

variable {n : Fin 4} (hb : b.toNat = n.val)

include hb

theorem execProfileSave_busy (hbusy : s.nvOperation.isSome = true) (hn : n.val ≠ 0) :
    execProfileSave b s = .next (s.putResponse 0x11 .busy []) := by
  refine service_reading hr ?_
  rw [slotOfByte_eq_some hb]
  exact (dif_neg hn).trans (if_pos hbusy)

theorem execProfileLoad_busy (hbusy : s.nvOperation.isSome = true) :
    execProfileLoad b s = .next (s.putResponse 0x12 .busy []) := by
  refine service_reading hr ?_
  rw [slotOfByte_eq_some hb]
  exact if_pos hbusy

theorem execBootSelect_busy (hbusy : s.nvOperation.isSome = true) :
    execBootSelect b s = .next (s.putResponse 0x13 .busy []) := by
  refine service_reading hr ?_
  rw [slotOfByte_eq_some hb]
  exact if_pos hbusy

variable (hidle : s.nvOperation = none)

include hidle

theorem execBootSelect_accepted : execBootSelect b s =
    .next ({ s with bootCell := s.bootCell.spoiled, nvOperation := some (.select n) }.putResponse 0x13 .accepted
      []) := by
  refine (service_ready hr).trans ?_
  simp only [slotOfByte_eq_some hb, Work.start_st, congrArg Option.isSome hidle]
  rfl

theorem execProfileLoad_invalid (hn : s.validImage n = none) :
    execProfileLoad b s = .next (s.putResponse 0x12 .invalidSlot []) := by
  refine service_reading hr ?_
  simp only [slotOfByte_eq_some hb, Work.start_st, congrArg Option.isSome hidle, hn]
  rfl

theorem execProfileLoad_valid {f : Profile} (hn : s.validImage n = some f) : execProfileLoad b s =
    .next (Work.settle ⟨{ s with running := f }.putResponse 0x12 .ok [], [], [], true⟩) := by
  refine (service_ready hr).trans ?_
  simp only [slotOfByte_eq_some hb, Work.start_st, congrArg Option.isSome hidle, hn]
  rfl

end

theorem execProfileSave_accepted {s : State} {b : Byte} {k : Fin 3} (hr : s.phase = .ready)
    (hb : b.toNat = k.val + 1) (hidle : s.nvOperation = none) : execProfileSave b s =
      .next ({ s with
        userSlots := s.userSlots.set k s.userSlots[k].unmarked
        nvOperation := some (.save k s.running) }.putResponse 0x11 .accepted []) := by
  refine (service_ready hr).trans ?_
  rw [slotOfByte_eq_some (n := ⟨k.val + 1, by omega⟩) hb]
  simp only [Work.start_st, congrArg Option.isSome hidle, dif_neg k.val.succ_ne_zero]
  rfl

theorem factoryProfile_ports (p : Port) : factoryProfile.ports[p] = factoryPolicy := Vector.getElem_replicate _

theorem factoryProfile_standing (n : EntryNumber) : factoryProfile.standing[n] = unusedEntry :=
  Vector.getElem_replicate _

/-- Settles O48: what the slots and the boot cell say by the lemmas on them, each request by its lemmas for BAD_VALUE,
REFUSED_FACTORY and BUSY and for the requests taken. -/
theorem profileStoreRequests : Obligations.ProfileStoreRequests := by
  refine ⟨⟨rfl, rfl, rfl, factoryProfile_ports, fun n => by rw [factoryProfile_standing]; rfl⟩, fun f => ?_,
    fun s => ⟨rfl, ?_⟩, BootCell.named_iff, fun s b hr => ?_⟩
  · simp only [Profile.inRange_iff, PortPolicy.inRange, StandingEntry.inRange, decide_eq_true_eq, forall_eq, and_assoc]
    rfl
  · rintro k x rfl
    simp only [State.validImage_user, ProfileSlot.valid_iff]
  · show (_ → execProfileSave b s = _ ∧ execProfileLoad b s = _ ∧ execBootSelect b s = _) ∧
      (_ → execProfileSave b s = _) ∧
      (_ → _ → (_ → execProfileSave b s = _) ∧ execProfileLoad b s = _ ∧ execBootSelect b s = _) ∧
      (∀ k : Fin 3, _ → _ → execProfileSave b s = _) ∧
      (∀ n : Fin 4, _ → _ → (∃ c : BootCell, c.named = none ∧ execBootSelect b s = _) ∧ (_ → execProfileLoad b s = _) ∧
        (∀ f, _ → execProfileLoad b s = _))
    refine ⟨profileStore_badValue hr, ?_, fun hb hbusy => ?_, fun k hb hidle => execProfileSave_accepted hr hb hidle,
      fun n hb hidle => ⟨⟨_, s.bootCell.named_spoiled, execBootSelect_accepted hr hb hidle⟩,
        execProfileLoad_invalid hr hb hidle, fun f => execProfileLoad_valid hr hb hidle⟩⟩
    · rintro rfl
      exact execProfileSave_factory hr
    · have hn : b.toNat = (⟨b.toNat, by omega⟩ : Fin 4).val := rfl
      exact ⟨fun h0 => execProfileSave_busy hr hn hbusy fun h => h0 (BitVec.eq_of_toNat_eq h),
        execProfileLoad_busy hr hn hbusy, execBootSelect_busy hr hn hbusy⟩

/-! ## The completion of an NV operation (R163) -/

theorem exec_nvOperationComplete {s : State} {o : NvOperation} (h : s.nvOperation = some o) (agrees : Bool) :
    exec (.nvOperationComplete agrees) s =
      if agrees then .next ({ s.nvWritten o with nvOperation := none }.setAlert .nvDone)
      else .next ({ s with nvOperation := none }.setAlert .nvFailed) := by
  show execNvOperationComplete agrees s = _
  rw [execNvOperationComplete, h]

/-- The slot that an agreeing save wrote is valid, and holds the copy taken at acceptance; the others are as before. -/
theorem State.validImage_nvWritten_save (s : State) (k : Fin 3) {f : Profile} (hf : f.inRange = true) (n : Fin 4) :
    (s.nvWritten (.save k f)).validImage n = if n.val = k.val + 1 then some f else s.validImage n := by
  rcases n.eq_zero_or_eq_succ with rfl | ⟨j, rfl⟩
  · rfl
  · have hset : (s.nvWritten (.save k f)).userSlots[j] = if k = j then ⟨f, true, f.checkValue⟩ else s.userSlots[j] :=
      vector_get_set _ _ _ _
    have hvalid : ProfileSlot.valid ⟨f, true, f.checkValue⟩ = true := (ProfileSlot.valid_iff _).2 ⟨rfl, rfl, hf⟩
    have hj : (Fin.succ j).val = k.val + 1 ↔ k = j := by rw [Fin.val_succ, Fin.ext_iff]; omega
    refine ((s.nvWritten (.save k f)).validImage_user j).trans ?_
    rw [hset, if_congr hj rfl rfl]
    split_ifs with hk hv
    · rfl
    · exact ((s.validImage_user j).trans (if_pos hv)).symm
    · exact ((s.validImage_user j).trans (if_neg hv)).symm

/-- Settles O49: the outcome by `exec_nvOperationComplete`, the slots after a save by `State.validImage_nvWritten_save`,
the boot cell after a select by `BootCell.named_iff`. -/
theorem nvCompletion : Obligations.NvCompletion := by
  refine ⟨fun s h => ?_, fun s k f h hf => ?_, fun s n h => ?_⟩
  · obtain ⟨o, ho⟩ := Option.isSome_iff_exists.1 h
    rw [exec_nvOperationComplete ho, if_neg Bool.false_ne_true]
  · refine ⟨_, exec_nvOperationComplete h true, ?_, fun n hn => ?_, rfl, rfl, rfl, rfl, rfl⟩
    · exact (s.validImage_nvWritten_save k hf _).trans (if_pos rfl)
    · exact (s.validImage_nvWritten_save k hf n).trans (if_neg hn)
  · refine ⟨_, exec_nvOperationComplete h true, (BootCell.named_iff _ n).2 ⟨?_, rfl⟩, rfl, rfl, rfl, rfl, rfl⟩
    exact Nat.mod_eq_of_lt (by omega)

end Sys2Proof.Machine
end

section
/-! The checks of a request transfer, one after the other (R166, R182, section 12.3). -/

namespace Sys2Proof

/-! ## Size and CRC (R166, checks 1 and 2) -/

theorem isRequestTransfer_cons {code : Byte} (h : code ≠ 0) (t : List Byte) : isRequestTransfer (code :: t) = true :=
  decide_eq_true fun h0 => h (Option.some.inj h0)

/-- The size agrees when there is a length field and as many bytes as it says, with code, length field and CRC-8. -/
theorem transferSizeAgrees_iff (t : List Byte) :
    transferSizeAgrees t = true ↔ 2 ≤ t.length ∧ t.length = (t.getD 1 0).toNat + 3 := by
  match t with
  | [] | [_] => simp [transferSizeAgrees]
  | _ :: n :: _ => simp [transferSizeAgrees]

/-- A length field that was not cut off by its one byte agrees. -/
theorem transferSizeAgrees_frame (code crc : Byte) {operands : List Byte} (h : operands.length < 256) :
    transferSizeAgrees (code :: BitVec.ofNat 8 operands.length :: operands ++ [crc]) = true := by
  rw [transferSizeAgrees_iff]
  simp [Nat.mod_eq_of_lt h]

theorem decodeTransfer_wrongSize {t : List Byte} (hreq : isRequestTransfer t = true)
    (hsize : transferSizeAgrees t = false) : decodeTransfer t = some (.badFrame t) := by
  rw [decodeTransfer, if_neg (by simp [hreq]), if_pos hsize]

/-- The row of a transfer whose size and CRC-8 are right, by what its code and operands name (checks 3 and 4). -/
def RequestReading.row (t : List Byte) : RequestReading → Instr
  | .noRequest => .badCommand t
  | .wrongLength => .badFrame t
  | .request i => i

/-- A transfer of the right size goes on to its CRC-8, and from there to its code and operands. -/
theorem decodeTransfer_frame {code crc : Byte} {operands t : List Byte} (hcode : code ≠ 0)
    (hlen : operands.length < 256) (ht : t = code :: BitVec.ofNat 8 operands.length :: operands ++ [crc]) :
    decodeTransfer t = some (if crc = crc8 (code :: BitVec.ofNat 8 operands.length :: operands) then
      (readRequest code operands).row t else .badFrame t) := by
  have hreq : isRequestTransfer t = true := ht ▸ isRequestTransfer_cons hcode _
  have hsize : transferSizeAgrees t = true := ht ▸ transferSizeAgrees_frame code crc hlen
  have hlast : t.getLast? = some crc := by rw [ht, List.getLast?_concat]
  have hinit : t.dropLast = code :: BitVec.ofNat 8 operands.length :: operands := by rw [ht, List.dropLast_concat]
  have hhead : t.headD 0 = code := by rw [ht]; rfl
  have hoperands : t.dropLast.drop 2 = operands := by rw [hinit]; rfl
  rw [decodeTransfer, if_neg (by simp [hreq]), if_neg (by simp [hsize]), hlast, hhead, hoperands, hinit]
  by_cases hcrc : crc = crc8 (code :: BitVec.ofNat 8 operands.length :: operands)
  · rw [if_neg (by simp [hcrc]), if_pos hcrc]
    cases readRequest code operands <;> rfl
  · rw [if_pos (by simp [hcrc]), if_neg hcrc]

theorem decodeTransfer_requestFrame {code : Byte} {operands : List Byte} (hcode : 1 ≤ code.toNat)
    (hlen : operands.length < 256) :
    decodeTransfer (requestFrame code operands) =
      some ((readRequest code operands).row (requestFrame code operands)) :=
  have hne : code ≠ 0 := fun h0 => absurd (h0 ▸ hcode) (by decide)
  (decodeTransfer_frame hne hlen rfl).trans (congrArg some (if_pos rfl))

/-! ## Code and operand length (R166, checks 3 and 4) -/

theorem readRequest_noRequest {code : Byte} (h : 0x13 < code.toNat) (operands : List Byte) :
    readRequest code operands = .noRequest := by
  unfold readRequest
  split
  case h_20 => rfl
  all_goals omega

/-- Each of the nineteen codes takes operands of one length alone. -/
theorem readRequest_wrongLength {code : Byte} {operands : List Byte} (h1 : 1 ≤ code.toNat) (h19 : code.toNat ≤ 0x13)
    (hlen : operands.length ≠
      [0, 0, 0, 2, 2, 1, 1, 1, 2, 3, 5, 0, 0, 0, 3, 6, 1, 1, 1].getD (code.toNat - 1) 0) :
    readRequest code operands = .wrongLength := by
  unfold readRequest
  split
  case h_20 =>
    simp only [imp_false] at *
    omega
  all_goals
    next hcode =>
    rw [hcode] at hlen
    split
    · exact absurd rfl hlen
    · rfl

/-- Settles O4: the size by `decodeTransfer_wrongSize`, the CRC-8 by `decodeTransfer_frame`, and code and operand length
by what `readRequest` makes of them. -/
theorem transferChecks : Obligations.TransferChecks := by
  refine ⟨fun t hreq hsize => ?_, fun code operands crc hcode hlen hcrc => ?_, fun code operands hcode hlen => ?_,
    fun code operands h1 h19 hlen hop => ?_⟩
  · refine decodeTransfer_wrongSize (decide_eq_true hreq) (Bool.eq_false_iff.2 fun h => ?_)
    obtain ⟨h2, hn⟩ := (transferSizeAgrees_iff t).1 h
    exact hsize.elim (not_lt.2 h2) fun hne => hne hn
  · exact (decodeTransfer_frame hcode hlen rfl).trans (congrArg some (if_neg hcrc))
  · rw [decodeTransfer_requestFrame (by omega) hlen, readRequest_noRequest hcode]
    rfl
  · rw [decodeTransfer_requestFrame h1 hlen, readRequest_wrongLength h1 h19 hop]
    rfl

end Sys2Proof
end

section
/-! The alerts (R175 to R177) and REFUSAL_CLEAR (R170). -/

namespace Sys2Proof.Machine

open Sys2Proof.Safety

/-! ## The level of ALERT# (R176) -/

/-- Every bit of the cause set is that of a cause (R175, section 12.3). -/
theorem AlertCause.exists_bit_eq {n : Nat} (h : n < 12) : ∃ c : AlertCause, c.bit = n := by
  by_cases h4 : n < 4
  · exact ⟨.portFenced ⟨n, h4⟩, rfl⟩
  by_cases h8 : n < 8
  · exact ⟨.portLink ⟨n - 4, by omega⟩, Nat.add_sub_of_le (not_lt.1 h4)⟩
  obtain rfl | rfl | rfl | rfl : n = 8 ∨ n = 9 ∨ n = 10 ∨ n = 11 := by omega
  exacts [⟨.damage, rfl⟩, ⟨.profileFault, rfl⟩, ⟨.nvDone, rfl⟩, ⟨.nvFailed, rfl⟩]

theorem State.alertAsserted_iff (s : State) : s.alertAsserted = true ↔
    ∃ c : AlertCause, s.alertCauses.getLsbD c.bit = true ∧ s.alertMaskBits.getLsbD c.bit = true := by
  rw [State.alertAsserted, decide_eq_true_eq]
  constructor
  · intro hne
    by_contra! hnone
    refine hne (BitVec.eq_of_getLsbD_eq fun n hn => ?_)
    obtain ⟨c, rfl⟩ := AlertCause.exists_bit_eq hn
    simpa [BitVec.getLsbD_and] using hnone c
  · rintro ⟨c, hcause, hmask⟩ hzero
    have hbit := congrArg (BitVec.getLsbD · c.bit) hzero
    simp [BitVec.getLsbD_and, hcause, hmask] at hbit

/-! ## The requests (R170, R177) -/

/-- A request of a ready part whose effect on the state makes nothing else due, with its response. -/
theorem service_effect {code : Byte} {act : Work → Work × ServiceResult × List Byte} {s t : State} {r : ServiceResult}
    {fields : List Byte} (h : s.phase = .ready) (hact : act (.start s) = (.start t, r, fields)) :
    service code act s = .next (t.putResponse code r fields) := by
  rw [service_ready h, hact]
  exact congrArg _ (Work.settle_quiet _)

section

variable {s : State} (hr : s.phase = .ready)

include hr

theorem execAlertClear_causes {c : BitVec 16} (hc : c.toNat < 2 ^ 12) : execAlertClear c s =
    .next ({ s with alertCauses := s.alertCauses &&& ~~~(c.setWidth 12) }.putResponse 0x04 .ok []) :=
  service_effect hr (if_pos hc)

theorem execAlertMask_causes {c : BitVec 16} (hc : c.toNat < 2 ^ 12) : execAlertMask c s =
    .next ({ s with alertMaskBits := c.setWidth 12 }.putResponse 0x05 .ok []) :=
  service_effect hr (if_pos hc)

theorem execAlertClear_badValue {c : BitVec 16} (hc : 2 ^ 12 ≤ c.toNat) :
    execAlertClear c s = .next (s.putResponse 0x04 .badValue []) :=
  service_reading hr (if_neg (not_lt.2 hc))

theorem execAlertMask_badValue {c : BitVec 16} (hc : 2 ^ 12 ≤ c.toNat) :
    execAlertMask c s = .next (s.putResponse 0x05 .badValue []) :=
  service_reading hr (if_neg (not_lt.2 hc))

theorem execRefusalClear_port {b : Byte} {p : Port} (hb : b.toNat = p.val) : execRefusalClear b s =
    .next ((s.setPort p { s.port p with refusal := none }).putResponse 0x07 .ok []) :=
  service_effect hr (by rw [portOfByte_eq_some hb]; rfl)

theorem execRefusalClear_badValue {b : Byte} (hb : 3 < b.toNat) :
    execRefusalClear b s = .next (s.putResponse 0x07 .badValue []) :=
  service_reading hr (by rw [portOfByte_eq_none hb])

end

/-- Settles O43: the level by `State.alertAsserted_iff`, a cause set by `State.hasAlert_setAlert`, and each request by its
two lemmas. -/
theorem alertsAndRefusalClear : Obligations.AlertsAndRefusalClear := by
  refine fun s => ⟨s.alertAsserted_iff, fun p c n hc => ?_, fun c d => ?_, fun _ hr => execAlertClear_causes hr,
    fun _ hr => execAlertMask_causes hr, fun _ hr hc => ⟨execAlertClear_badValue hr hc, execAlertMask_badValue hr hc⟩,
    fun _ _ hr => execRefusalClear_port hr, fun _ hr => execRefusalClear_badValue hr⟩
  · have hbit : c.bit = n := by
      simp only [List.mem_cons, Prod.mk.injEq, List.not_mem_nil, or_false] at hc
      rcases hc with ⟨rfl, rfl⟩ | ⟨rfl, rfl⟩ | ⟨rfl, rfl⟩ | ⟨rfl, rfl⟩ | ⟨rfl, rfl⟩ | ⟨rfl, rfl⟩ <;> rfl
    subst hbit
    exact ⟨rfl, rfl, rfl⟩
  · rw [State.hasAlert_setAlert, Bool.or_comm]

end Sys2Proof.Machine
end

section
/-! A step takes the command at the front of the queue (log 1). -/

namespace Sys2Proof.Machine

theorem step_of_pending_cons {s : State} {c : Instr} {rest : List Instr} (h : s.pending = c :: rest) :
    step s = exec c { s with pending := rest } := by
  rw [step, h]

theorem step_of_pending_nil {s : State} (h : s.pending = []) : step s = .next s := by
  rw [step, h]

/-- Settles O1: the two branches of `step`. -/
theorem stepTakesTheFront : Obligations.StepTakesTheFront :=
  ⟨fun _ _ _ => step_of_pending_cons, fun _ => step_of_pending_nil⟩

end Sys2Proof.Machine
end

section
/-! Which packets are malformed (R180, section 12.2). -/

namespace Sys2Proof

/-! ## Fields of a packet's body -/

/-- An address of five bytes fits in 36 bits exactly when its last byte holds no more than bits 32 to 35. -/
theorem leValue_address_lt_iff (a0 a1 a2 a3 a4 : Byte) :
    leValue [a0, a1, a2, a3, a4] < 2 ^ 36 ↔ a4.toNat ≤ 15 := by
  simp only [leValue]
  omega

theorem leValue_pair (b0 b1 : Byte) : leValue [b0, b1] = b0.toNat + 256 * b1.toNat := rfl

/-- A code outside 1 to 7 names no command, and takes any operands (R180). -/
theorem decodeCommand_unknown {code : Byte} (h : code.toNat = 0 ∨ 8 ≤ code.toNat) (operands : List Byte) :
    decodeCommand code operands = some (.unknown code operands) := by
  unfold decodeCommand
  split
  case h_8 => rfl
  all_goals omega

/-- Each of the seven codes takes operands of one length alone. -/
theorem decodeCommand_eq_none_iff (code : Byte) (operands : List Byte) :
    decodeCommand code operands = none ↔ 1 ≤ code.toNat ∧ code.toNat ≤ 7 ∧
      operands.length ≠ [10, 5, 5, 3, 3, 1, 2].getD (code.toNat - 1) 0 := by
  by_cases hcode : code.toNat = 0 ∨ 8 ≤ code.toNat
  · rw [decodeCommand_unknown hcode]
    exact iff_of_false (Option.some_ne_none _) (by omega)
  · unfold decodeCommand
    split
    case h_8 =>
      simp only [imp_false] at *
      omega
    all_goals
      next hn =>
      rw [hn]
      split
      · exact iff_of_false (Option.some_ne_none _) fun h => h.2.2 rfl
      · next hshape =>
        exact iff_of_true rfl (by simpa [List.length_eq_succ_iff, @eq_comm _ _ operands] using hshape)

/-! ## Kind by kind -/

section

variable {k : RawPacket}

theorem decodePacket_unknownKind (h : k.kind.toNat = 0 ∨ 5 < k.kind.toNat) : decodePacket k = none := by
  unfold decodePacket
  split
  case h_6 => rfl
  all_goals omega

theorem decodePacket_read_eq_none_iff (hk : k.kind.toNat = 1) :
    decodePacket k = none ↔
      k.body.length ≠ 8 ∨ 31 < (k.body.getD 0 0).toNat ∨ 15 < (k.body.getD 5 0).toNat := by
  simp only [decodePacket, hk]
  split
  · next t a0 a1 a2 a3 a4 l0 l1 hbody =>
    have haddress := leValue_address_lt_iff a0 a1 a2 a3 a4
    simp only [hbody, dite_eq_right_iff, ite_eq_right_iff, reduceCtorEq, imp_false, List.length_cons, List.length_nil,
      List.getD_cons_succ, List.getD_cons_zero]
    omega
  · next hshape =>
    exact iff_of_true rfl (.inl (by simpa [List.length_eq_succ_iff, @eq_comm _ _ k.body] using hshape))

theorem decodePacket_write_eq_none_iff (hk : k.kind.toNat = 2) :
    decodePacket k = none ↔
      k.body.length < 7 ∨ k.body.length ≠ 7 + ((k.body.getD 5 0).toNat + 256 * (k.body.getD 6 0).toNat) ∨
        256 < (k.body.getD 5 0).toNat + 256 * (k.body.getD 6 0).toNat ∨ 15 < (k.body.getD 4 0).toNat := by
  simp only [decodePacket, hk]
  split
  · next a0 a1 a2 a3 a4 l0 l1 data hbody =>
    have haddress := leValue_address_lt_iff a0 a1 a2 a3 a4
    rw [ite_eq_right_iff]
    simp only [hbody, reduceCtorEq, imp_false, leValue_pair, List.length_cons, List.getD_cons_succ, List.getD_cons_zero]
    omega
  · next hshape =>
    refine iff_of_true rfl (.inl (not_le.1 fun hlen => ?_))
    match hbody : k.body, hlen with
    | _ :: _ :: _ :: _ :: _ :: _ :: _ :: _, _ => exact hshape _ _ _ _ _ _ _ _ hbody

theorem decodePacket_command_eq_none_iff (hk : k.kind.toNat = 3) :
    decodePacket k = none ↔
      k.body.length < 2 ∨ 7 < (k.body.getD 0 0).toNat ∨
        (1 ≤ (k.body.getD 1 0).toNat ∧ (k.body.getD 1 0).toNat ≤ 7 ∧
          k.body.length ≠ 2 + [10, 5, 5, 3, 3, 1, 2].getD ((k.body.getD 1 0).toNat - 1) 0) := by
  simp only [decodePacket, hk]
  split
  · next t code operands hbody =>
    simp only [hbody, dite_eq_right_iff, Option.map_eq_none_iff, decodeCommand_eq_none_iff, List.length_cons,
      List.getD_cons_succ, List.getD_cons_zero]
    omega
  · next hshape =>
    refine iff_of_true rfl (.inl (not_le.1 fun hlen => ?_))
    match hbody : k.body, hlen with
    | _ :: _ :: _, _ => exact hshape _ _ _ hbody

theorem decodePacket_noticeAck_eq_none_iff (hk : k.kind.toNat = 4) :
    decodePacket k = none ↔ k.body.length ≠ 2 := by
  simp only [decodePacket, hk]
  split
  · next hbody => simp [hbody]
  · next hshape => exact iff_of_true rfl (by simpa [List.length_eq_succ_iff, @eq_comm _ _ k.body] using hshape)

theorem decodePacket_hello_eq_none_iff (hk : k.kind.toNat = 5) :
    decodePacket k = none ↔ k.body.length ≠ 4 := by
  simp only [decodePacket, hk]
  split
  · next hbody => simp [hbody]
  · next hshape => exact iff_of_true rfl (by simpa [List.length_eq_succ_iff, @eq_comm _ _ k.body] using hshape)

end

/-- Settles O5: the lemma of the packet's kind; of the other kinds' clauses none applies. -/
theorem malformedPackets : Obligations.MalformedPackets := by
  intro k
  have hkind (n : Byte) : k.kind = n ↔ k.kind.toNat = n.toNat := BitVec.toNat_inj.symm
  simp only [hkind]
  by_cases h : k.kind.toNat = 0 ∨ 5 < k.kind.toNat
  · exact iff_of_true (decodePacket_unknownKind h) (.inl h)
  obtain h | h | h | h | h : k.kind.toNat = 1 ∨ k.kind.toNat = 2 ∨ k.kind.toNat = 3 ∨ k.kind.toNat = 4 ∨
      k.kind.toNat = 5 := by omega
  · simp [decodePacket_read_eq_none_iff h, h]
  · simp [decodePacket_write_eq_none_iff h, h]
  · simp [decodePacket_command_eq_none_iff h, h]
  · simp [decodePacket_noticeAck_eq_none_iff h, h]
  · simp [decodePacket_hello_eq_none_iff h, h]

end Sys2Proof
end

section
/-! What a host or the service port writes is read back (R179, R180, R182, section 12.2). -/

namespace Sys2Proof

/-! ## Fields (R179) -/

theorem leValue_leBytes (n v : Nat) : leValue (leBytes n v) = v % 256 ^ n := by
  induction n generalizing v with
  | zero => exact (Nat.mod_one v).symm
  | succ n ih => rw [leBytes, leValue, ih, Nat.pow_succ', Nat.mod_mul]; rfl

theorem leValue_leBytes_toNat {w n : Nat} (h : w ≤ 8 * n) (x : BitVec w) : leValue (leBytes n x.toNat) = x.toNat := by
  have hfits : x.toNat < 256 ^ n := calc
    x.toNat < 2 ^ w := x.isLt
    _ ≤ 2 ^ (8 * n) := Nat.pow_le_pow_right (by decide) h
    _ = 256 ^ n := Nat.pow_mul 2 8 n
  rw [leValue_leBytes, Nat.mod_eq_of_lt hfits]

/-- A word is read back from any number of bytes that it fits in. -/
theorem ofNat_leValue_leBytes {w n : Nat} (h : w ≤ 8 * n) (x : BitVec w) :
    BitVec.ofNat w (leValue (leBytes n x.toNat)) = x := by
  rw [leValue_leBytes_toNat h, BitVec.ofNat_toNat, BitVec.setWidth_eq]

theorem word16_readBack (x : BitVec 16) : BitVec.ofNat 16 (leValue (leBytes 2 x.toNat)) = x :=
  ofNat_leValue_leBytes (by decide) x

theorem word24_readBack (x : BitVec 24) : BitVec.ofNat 24 (leValue (leBytes 3 x.toNat)) = x :=
  ofNat_leValue_leBytes (by decide) x

/-- A number below 256 is read back from its byte. -/
theorem toNat_ofNat_of_fin {n : Nat} (h : n ≤ 256) (i : Fin n) : (BitVec.ofNat 8 i.val).toNat = i.val :=
  Nat.mod_eq_of_lt (i.isLt.trans_le h)

theorem handleOfBytes_bytes (h : Handle) :
    handleOfBytes (BitVec.ofNat 8 h.index.val) (BitVec.ofNat 8 h.generation.toNat)
      (BitVec.ofNat 8 (h.generation.toNat / 256)) = h :=
  congrArg₂ Handle.mk (Fin.ext (toNat_ofNat_of_fin le_rfl h.index)) (word16_readBack h.generation)

/-! ## Packets (section 12.2) -/

/-- A command's bytes are its code and its operands, and from these it is read back. -/
theorem decodeCommand_bytes {tag : CommandTag} {c : LeaseCommand}
    (hwf : (Packet.command ⟨tag, c⟩).wellFormed = true) :
    ∃ code operands, c.bytes = code :: operands ∧ decodeCommand code operands = some c := by
  cases c with
  | acquire k b c t w =>
    refine ⟨_, _, rfl, ?_⟩
    conv_rhs => rw [← word16_readBack b, ← word24_readBack c, ← word16_readBack t, ← word16_readBack w]
    rfl
  | join h t =>
    exact ⟨_, _, rfl, congrArg₂ (some <| LeaseCommand.join · ·) (handleOfBytes_bytes h) (word16_readBack t)⟩
  | renew h t =>
    exact ⟨_, _, rfl, congrArg₂ (some <| LeaseCommand.renew · ·) (handleOfBytes_bytes h) (word16_readBack t)⟩
  | release h => exact ⟨_, _, rfl, congrArg (some <| LeaseCommand.release ·) (handleOfBytes_bytes h)⟩
  | convert h => exact ⟨_, _, rfl, congrArg (some <| LeaseCommand.convert ·) (handleOfBytes_bytes h)⟩
  | cancel t => exact ⟨_, _, rfl, rfl⟩
  | lookup g => exact ⟨_, _, rfl, congrArg (some <| LeaseCommand.lookup ·) (word16_readBack g)⟩
  | unknown code operands => exact ⟨_, _, rfl, decodeCommand_unknown (of_decide_eq_true hwf) operands⟩

theorem decodePacket_encode_command {tag : CommandTag} {c : LeaseCommand}
    (hwf : (Packet.command ⟨tag, c⟩).wellFormed = true) :
    decodePacket (Packet.command ⟨tag, c⟩).encode = some (.command ⟨tag, c⟩) := by
  obtain ⟨code, operands, hbytes, hdecode⟩ := decodeCommand_bytes hwf
  have htag := toNat_ofNat_of_fin (by decide) tag
  rw [Packet.encode, hbytes]
  refine (dif_pos (htag.trans_lt tag.isLt)).trans ?_
  rw [hdecode]
  exact congrArg (some <| Packet.command ⟨·, c⟩) (Fin.ext htag)

theorem decodePacket_encode_read (t : ReadTag) (a : PoolAddress) (l : BitVec 16) :
    decodePacket (Packet.access (.read t a l)).encode = some (.access (.read t a l)) := by
  have htag := toNat_ofNat_of_fin (by decide) t
  have haddress : leValue (leBytes 5 a.toNat) = a.toNat := leValue_leBytes_toNat (by decide) a
  refine (dif_pos (htag.trans_lt t.isLt)).trans ((if_pos (haddress.trans_lt a.isLt)).trans ?_)
  conv_rhs => rw [← word16_readBack l, ← ofNat_leValue_leBytes (n := 5) (by decide) a]
  exact congrArg (some <| Packet.access <| .read · _ _) (Fin.ext htag)

theorem decodePacket_encode_write {a : PoolAddress} {l : BitVec 16} {data : List Byte}
    (hwf : (Packet.access (.write a l data)).wellFormed = true) :
    decodePacket (Packet.access (.write a l data)).encode = some (.access (.write a l data)) := by
  obtain ⟨hmax, hdata⟩ := of_decide_eq_true hwf
  have haddress : leValue (leBytes 5 a.toNat) = a.toNat := leValue_leBytes_toNat (by decide) a
  have hlength : leValue (leBytes 2 l.toNat) = l.toNat := leValue_leBytes_toNat (by decide) l
  refine (if_pos ⟨haddress.trans_lt a.isLt, hlength.trans_le hmax, hdata.trans hlength.symm⟩).trans ?_
  conv_rhs => rw [← word16_readBack l, ← ofNat_leValue_leBytes (n := 5) (by decide) a]
  rfl

/-- Settles O2: the operands of each kind are read back field by field. -/
theorem packetRoundTrip : Obligations.PacketRoundTrip := by
  intro x hwf
  match x with
  | .access (.read t a l) => exact decodePacket_encode_read t a l
  | .access (.write a l data) => exact decodePacket_encode_write hwf
  | .command ⟨tag, c⟩ => exact decodePacket_encode_command hwf
  | .noticeAck q => exact congrArg (some <| Packet.noticeAck ·) (word16_readBack q)
  | .hello h => exact congrArg (some <| Packet.hello ·) (ofNat_leValue_leBytes (n := 4) (by decide) h)

/-! ## Request frames (R182) -/

/-- A frame whose operands are read as a request passes the checks of size and CRC-8 and is that request (R166). -/
theorem decodeTransfer_requestFrame_of_read {code : Byte} {operands : List Byte} {i : Instr}
    (hcode : 1 ≤ code.toNat) (hlen : operands.length < 256) (hread : readRequest code operands = .request i) :
    decodeTransfer (requestFrame code operands) = some i := by
  rw [decodeTransfer_requestFrame hcode hlen, hread]
  rfl

/-- Settles O3: by `decodeTransfer_requestFrame_of_read`, with the words and the handle among the operands read back. -/
theorem serviceFrameRoundTrip : Obligations.ServiceFrameRoundTrip := by
  intro i t h hraw
  cases i with
  | badFrame u => exact absurd rfl (hraw u).1
  | badCommand u => exact absurd rfl (hraw u).2
  | identify | status | alertRead | waitRead | scrubRead | deviceReset | portStatus | refusalClear | portReset
    | profileSave | profileLoad | bootSelect | fieldRead =>
    cases h
    exact decodeTransfer_requestFrame_of_read (by decide) (by simp) rfl
  | alertClear c =>
    cases h
    exact decodeTransfer_requestFrame_of_read (by decide) (by simp)
      (congrArg (RequestReading.request <| .alertClear ·) (word16_readBack c))
  | alertMask m =>
    cases h
    exact decodeTransfer_requestFrame_of_read (by decide) (by simp)
      (congrArg (RequestReading.request <| .alertMask ·) (word16_readBack m))
  | leaseRead n =>
    cases h
    exact decodeTransfer_requestFrame_of_read (by decide) (by simp)
      (congrArg (RequestReading.request <| .leaseRead ·) (word16_readBack n))
  | leaseNext g =>
    cases h
    exact decodeTransfer_requestFrame_of_read (by decide) (by simp)
      (congrArg (RequestReading.request <| .leaseNext ·) (word24_readBack g))
  | forceRevoke handle g =>
    cases h
    exact decodeTransfer_requestFrame_of_read (by decide) (by simp [Handle.bytes])
      (congrArg₂ (RequestReading.request <| .forceRevoke · ·) (handleOfBytes_bytes handle) (word16_readBack g))
  | fieldWrite x v =>
    cases h
    exact decodeTransfer_requestFrame_of_read (by decide) (by simp)
      (congrArg (RequestReading.request <| .fieldWrite x ·) (word24_readBack v))
  | _ => cases h

end Sys2Proof
end
